-- ==== Sys2Proof/Word.lean ====
section
/-! DEFINITION. The words of the OBP protocol framer: the widths the spec gives its operands and results (spec/30_encoding.md R97). -/

namespace Sys2Proof

/-- A byte: the addressable unit of both buffers (spec/20_memory.md R52). -/
abbrev Byte := BitVec 8

/-- A 16-bit value: the command word and the two-byte header fields. -/
abbrev Half := BitVec 16

/-- A 32-bit value: `off`, `len`, `cnt` and the four-byte header fields. -/
abbrev Word := BitVec 32

/-- A 48-bit value: the reserved header field and the transaction result `xres`. -/
abbrev Word48 := BitVec 48

/-- A 64-bit value: `wdata` and `rdata`. -/
abbrev Dword := BitVec 64

end Sys2Proof
end

