-- ==== Sys2Proof/Config.lean ====
section
/-! DEFINITION. The parameters of the block (spec/00_scope.md R6), the transport's enumerations, and the free values: constants without a body, of which nothing can be proved. -/

namespace Sys2Proof

/-! ### Fixed parameters (R6: "fixed by the source") -/

/-- `HDR`: the header's length in bytes. -/
def hdrLen : Nat := 44
/-- `IMM_BASE`: the buffer offset of the immediate-data region. -/
def immBase : Nat := 24
/-- `IMM_CAP`: the size of the immediate-data region. -/
def immCap : Nat := 16
/-- `MIN_BR`: the least legal value of bytes-remaining. -/
def minBr : Nat := 20
/-- `CK_LEN`: the length of the checksum region. -/
def ckLen : Nat := 16
/-- `FT_LEN`: the length of the footer. -/
def ftLen : Nat := 4

/-! ### Open parameters -/

/-- The capacity of one buffer, open with `64 <= CAP < 2^31` (R6, decision D2). It is held as the
number of bytes above 64, so that no illegal capacity can be written. -/
structure Capacity where
  extra : Fin 2147483584
deriving DecidableEq, Repr

/-- `CAP` in bytes. -/
def Capacity.bytes (c : Capacity) : Nat := 64 + c.extra.val

/-- The bit positions of the seven named flags (spec/30_encoding.md R86). -/
structure FlagPositions where
  response : Fin 16
  ack : Fin 16
  ackRequest : Fin 16
  nack : Fin 16
  deviceException : Fin 16
  deprecated1 : Fin 16
  deprecated2 : Fin 16
deriving DecidableEq, Repr

/-- The positions R86 takes (decision D7). UNVERIFIED (general knowledge in the spec, R86): log entry 7. -/
def FlagPositions.default : FlagPositions :=
  { response := 0, ack := 1, ackRequest := 2, nack := 3, deviceException := 4,
    deprecated1 := 5, deprecated2 := 6 }

/-- The open parameters of R6. They are fixed before reset and no command changes them (R400); the
state carries them so that every statement about a state is a statement about every choice of them. -/
structure Params where
  capReq : Capacity
  capRsp : Capacity
  flags : FlagPositions
  xactClearsRsp : Bool
  xactStrictHeader : Bool
deriving DecidableEq, Repr

/-- The parameters of `State.reset`: R6's defaults, and for the two capacities, of which the spec
gives only bounds, 64 bytes each. DESIGN CHOICE, unsafe: log entry 2. -/
def Params.default : Params :=
  { capReq := ⟨0⟩, capRsp := ⟨0⟩, flags := FlagPositions.default,
    xactClearsRsp := true, xactStrictHeader := false }

/-- `MSGID_GET_INTEGRATION_TIME` (spec/30_encoding.md R96). -/
def msgIdGetIntegrationTime : Word := 0x00110000

/-- `MSGID_SET_TRIGGER_MODE` (R96). -/
def msgIdSetTriggerMode : Word := 0x00110110

/-- `MSGID_SET_INTEGRATION_TIME`: open in R96 (decision D41); the block never interprets it. -/
opaque msgIdSetIntegrationTime : Word

/-! ### The transport's side of the boundary -/

/-- The transport status (spec/30_encoding.md R93), in the listed order. -/
inductive TransportStatus
  | success
  | pending
  | portError
  | nullBuffer
  | outOfRange
  | timeout
  | insufficientData
  | pipeError
  | otherException
deriving DecidableEq, Repr, Inhabited

/-- One call the block makes of its transport (spec/47_transaction.md R311, R312): a send with the
bytes it offers in address order, or a receive with the offset in `RSP` and the count asked for. -/
inductive TransportCall
  | sendBytes (bytes : List Byte)
  | receiveBytes (offset count : Nat)
deriving DecidableEq, Repr

/-! ### Free values -/

/-- The oracle's answer to its latest call, as a function of all the calls made of it (newest first,
the present one included), which is all that its hidden state can depend on (R310). Nothing is known
of it, R312's contract included. DESIGN CHOICE, safe: log entry 5. -/
opaque Config.freeAnswer : List TransportCall → TransportStatus × List Byte

/-- What byte of `RSP` at an offset holds after a receive that did not deliver all it was asked for
(R312: unspecified), by the calls made so far and the offset. DESIGN CHOICE, safe: log entry 6. -/
opaque Config.freeByte : List TransportCall → Nat → Byte

end Sys2Proof
end

