-- ==== Sys2Proof/Syntax.lean ====
section
/-! DEFINITION. The commands of the block: the raw record the host presents (spec/30_encoding.md R97) and the typed instruction, one constructor for each row of spec/opcode_table.json (R99). -/

namespace Sys2Proof

/-- The buffer a command selects: `bsel` 0 is `REQ`, 1 is `RSP` (R98). -/
inductive BufSel
  | req
  | rsp
deriving DecidableEq, Repr

/-- A command record as the host presents it (R97): the command word and four operands sampled with it. -/
structure Command where
  cw : Half
  off : Word
  len : Word
  wdata : Dword
  wbytes : List Byte
deriving DecidableEq, Repr

/-- The sixty-five commands, with the operands R101 says each reads. An operand that a command does
not read is no field of its constructor (R97: it "may hold anything"). -/
inductive Instr
  /-- `INIT` (R131). -/
  | init (b : BufSel)
  /-- `CLEAR` (R133). -/
  | clear (b : BufSel)
  /-- `GET_SYNC`: read the start sync field (R145). -/
  | getSync (b : BufSel)
  /-- `GET_VER`: read the protocol version field (R146). -/
  | getVer (b : BufSel)
  /-- `GET_FLAGS`: read the flags field (R147). -/
  | getFlags (b : BufSel)
  /-- `GET_ERRNO`: read the error number field (R148). -/
  | getErrno (b : BufSel)
  /-- `GET_MSGTYPE`: read the message type field (R149). -/
  | getMsgtype (b : BufSel)
  /-- `GET_REGARDING`: read the regarding field (R150). -/
  | getRegarding (b : BufSel)
  /-- `GET_RSVD`: read the reserved field (R151). -/
  | getRsvd (b : BufSel)
  /-- `GET_CKTYPE`: read the checksum type field (R152). -/
  | getCktype (b : BufSel)
  /-- `GET_IMMLEN`: read the immediate-data length field (R153). -/
  | getImmlen (b : BufSel)
  /-- `GET_BYTESREM`: read the bytes remaining field (R154). -/
  | getBytesrem (b : BufSel)
  /-- `SET_SYNC`: write the start sync field (R160). -/
  | setSync (b : BufSel) (v : Half)
  /-- `SET_VER`: write the protocol version field (R161). -/
  | setVer (b : BufSel) (v : Half)
  /-- `SET_FLAGS`: write the flags field (R162). -/
  | setFlags (b : BufSel) (v : Half)
  /-- `SET_ERRNO`: write the error number field (R163). -/
  | setErrno (b : BufSel) (v : Half)
  /-- `SET_MSGTYPE`: write the message type field (R164). -/
  | setMsgtype (b : BufSel) (v : Word)
  /-- `SET_REGARDING`: write the regarding field (R165). -/
  | setRegarding (b : BufSel) (v : Word)
  /-- `SET_RSVD`: write the reserved field (R166). -/
  | setRsvd (b : BufSel) (v : Word48)
  /-- `SET_CKTYPE`: write the checksum type field (R167). -/
  | setCktype (b : BufSel) (v : Byte)
  /-- `SET_IMMLEN`: write the immediate-data length field (R168). -/
  | setImmlen (b : BufSel) (v : Byte)
  /-- `SET_BYTESREM`: write the bytes remaining field (R169). -/
  | setBytesrem (b : BufSel) (v : Word)
  /-- `SET_IMM_BYTE`: write 1 byte into the immediate data (R185). -/
  | setImmByte (b : BufSel) (off : Word) (v : Byte)
  /-- `SET_IMM_SHORT`: write 2 bytes into the immediate data (R186). -/
  | setImmShort (b : BufSel) (off : Word) (v : Half)
  /-- `SET_IMM_INT`: write 4 bytes into the immediate data (R187). -/
  | setImmInt (b : BufSel) (off : Word) (v : Word)
  /-- `SET_IMM_LONG`: write 8 bytes into the immediate data (R188). -/
  | setImmLong (b : BufSel) (off : Word) (v : Dword)
  /-- `SET_IMM_FLOAT`: write 4 bytes into the immediate data (R189). -/
  | setImmFloat (b : BufSel) (off : Word) (v : Word)
  /-- `SET_IMM_DOUBLE`: write 8 bytes into the immediate data (R190). -/
  | setImmDouble (b : BufSel) (off : Word) (v : Dword)
  /-- `SET_IMM_BYTES`: write a byte sequence of `len` bytes into the immediate data (R191). -/
  | setImmBytes (b : BufSel) (off len : Word) (wbytes : List Byte)
  /-- `GET_IMM_BYTE`: read 1 byte of the immediate data (R195). -/
  | getImmByte (b : BufSel) (off : Word)
  /-- `GET_IMM_SHORT`: read 2 bytes of the immediate data (R196). -/
  | getImmShort (b : BufSel) (off : Word)
  /-- `GET_IMM_INT`: read 4 bytes of the immediate data (R197). -/
  | getImmInt (b : BufSel) (off : Word)
  /-- `GET_IMM_LONG`: read 8 bytes of the immediate data (R198). -/
  | getImmLong (b : BufSel) (off : Word)
  /-- `GET_IMM_FLOAT`: read 4 bytes of the immediate data (R199). -/
  | getImmFloat (b : BufSel) (off : Word)
  /-- `GET_IMM_DOUBLE`: read 8 bytes of the immediate data (R200). -/
  | getImmDouble (b : BufSel) (off : Word)
  /-- `GET_IMM_BYTES`: read `len` bytes of the immediate data (R201). -/
  | getImmBytes (b : BufSel) (off len : Word)
  /-- `SET_PAY_BYTE`: write 1 byte into the payload (R215). -/
  | setPayByte (b : BufSel) (off : Word) (v : Byte)
  /-- `SET_PAY_SHORT`: write 2 bytes into the payload (R216). -/
  | setPayShort (b : BufSel) (off : Word) (v : Half)
  /-- `SET_PAY_INT`: write 4 bytes into the payload (R217). -/
  | setPayInt (b : BufSel) (off : Word) (v : Word)
  /-- `SET_PAY_LONG`: write 8 bytes into the payload (R218). -/
  | setPayLong (b : BufSel) (off : Word) (v : Dword)
  /-- `SET_PAY_FLOAT`: write 4 bytes into the payload (R219). -/
  | setPayFloat (b : BufSel) (off : Word) (v : Word)
  /-- `SET_PAY_DOUBLE`: write 8 bytes into the payload (R220). -/
  | setPayDouble (b : BufSel) (off : Word) (v : Dword)
  /-- `SET_PAY_BYTES`: write a byte sequence of `len` bytes into the payload (R221). -/
  | setPayBytes (b : BufSel) (off len : Word) (wbytes : List Byte)
  /-- `GET_PAY_BYTE`: read 1 byte of the payload (R225). -/
  | getPayByte (b : BufSel) (off : Word)
  /-- `GET_PAY_SHORT`: read 2 bytes of the payload (R226). -/
  | getPayShort (b : BufSel) (off : Word)
  /-- `GET_PAY_INT`: read 4 bytes of the payload (R227). -/
  | getPayInt (b : BufSel) (off : Word)
  /-- `GET_PAY_LONG`: read 8 bytes of the payload (R228). -/
  | getPayLong (b : BufSel) (off : Word)
  /-- `GET_PAY_FLOAT`: read 4 bytes of the payload (R229). -/
  | getPayFloat (b : BufSel) (off : Word)
  /-- `GET_PAY_DOUBLE`: read 8 bytes of the payload (R230). -/
  | getPayDouble (b : BufSel) (off : Word)
  /-- `GET_PAY_BYTES`: read `len` bytes of the payload (R231). -/
  | getPayBytes (b : BufSel) (off len : Word)
  /-- `CKSUM_COMPUTE` (R252). -/
  | cksumCompute (b : BufSel)
  /-- `CKSUM_MATCH` (R255). -/
  | cksumMatch (b : BufSel)
  /-- `GET_CKSUM` (R257). -/
  | getCksum (b : BufSel)
  /-- `SET_CKSUM` (R258). -/
  | setCksum (b : BufSel) (len : Word) (wbytes : List Byte)
  /-- `SET_FOOTER` (R260). -/
  | setFooter (b : BufSel)
  /-- `GET_FOOTER` (R262). -/
  | getFooter (b : BufSel)
  /-- `CHECK_FOOTER` (R264). -/
  | checkFooter (b : BufSel)
  /-- `MSG_SIZE` (R270). -/
  | msgSize (b : BufSel)
  /-- `PUT_AUTO` (R285). -/
  | putAuto (b : BufSel) (len : Word) (wbytes : List Byte) (threshold : Byte)
  /-- `GET_AUTO` (R288). -/
  | getAuto (b : BufSel)
  /-- `GET_STRING` (R290). -/
  | getString (b : BufSel) (minPrint : Byte)
  /-- `FINALIZE` (R320). -/
  | finalize (b : BufSel) (msgType : Word)
  /-- `HDR_PARSE` (R323). -/
  | hdrParse (b : BufSel)
  /-- `RSP_CLASSIFY` (R326). -/
  | rspClassify (b : BufSel)
  /-- `XACT` (R330): it uses both buffers in their fixed roles, so it selects none; `decOp`, `decArg`,
  `off` and `len` are the decode command and its operands (R331). -/
  | xact (msgType : Word) (always : Bool) (decOp decArg : Byte) (off len : Word)
deriving DecidableEq, Repr

end Sys2Proof
end

