-- ==== Sys2Proof/WellFormed.lean ====
section
/-! DEFINITION. The check an instruction must pass: the interface contract on `wbytes`. -/

namespace Sys2Proof

/-- `len(wbytes) = len`, the contract of the four commands that read a byte sequence
(spec/30_encoding.md R97: `wbytes` is `len` bytes). Every other operand is a field of its width, so
nothing else can be ill-formed. -/
def Instr.wellFormed : Instr → Bool
  | .setImmBytes _ _ len wbytes => wbytes.length == len.toNat
  | .setPayBytes _ _ len wbytes => wbytes.length == len.toNat
  | .setCksum _ len wbytes => wbytes.length == len.toNat
  | .putAuto _ len wbytes _ => wbytes.length == len.toNat
  | .init _ | .clear _
  | .getSync _ | .getVer _ | .getFlags _ | .getErrno _ | .getMsgtype _
  | .getRegarding _ | .getRsvd _ | .getCktype _ | .getImmlen _ | .getBytesrem _
  | .setSync _ _ | .setVer _ _ | .setFlags _ _ | .setErrno _ _ | .setMsgtype _ _
  | .setRegarding _ _ | .setRsvd _ _ | .setCktype _ _ | .setImmlen _ _ | .setBytesrem _ _
  | .setImmByte _ _ _ | .setImmShort _ _ _ | .setImmInt _ _ _
  | .setImmLong _ _ _ | .setImmFloat _ _ _ | .setImmDouble _ _ _
  | .getImmByte _ _ | .getImmShort _ _ | .getImmInt _ _ | .getImmLong _ _
  | .getImmFloat _ _ | .getImmDouble _ _ | .getImmBytes _ _ _
  | .setPayByte _ _ _ | .setPayShort _ _ _ | .setPayInt _ _ _
  | .setPayLong _ _ _ | .setPayFloat _ _ _ | .setPayDouble _ _ _
  | .getPayByte _ _ | .getPayShort _ _ | .getPayInt _ _ | .getPayLong _ _
  | .getPayFloat _ _ | .getPayDouble _ _ | .getPayBytes _ _ _
  | .cksumCompute _ | .cksumMatch _ | .getCksum _ | .setFooter _ | .getFooter _
  | .checkFooter _ | .msgSize _
  | .getAuto _ | .getString _ _
  | .finalize _ _ | .hdrParse _ | .rspClassify _ | .xact _ _ _ _ _ _ => true

end Sys2Proof
end

