-- ==== Sys2Proof/Decode.lean ====
section
/-! DEFINITION. The decoder of the command record (spec/30_encoding.md R98 to R101) and the encoder, written from the same tables. -/

namespace Sys2Proof

/-- Why the decoder gives no instruction. -/
inductive DecodeError
  /-- The command word is not a defined command (R100): the machine takes the fault `IllegalOp`. -/
  | illegalOp
  /-- `wbytes` does not hold the `len` bytes a command reads (R97's contract; spec/93 U29: refuse). DEDUCED, safe: log entry 10. -/
  | wbytesLength
deriving DecidableEq, Repr

/-- `CW[7:0]`, the opcode (R98). -/
def opcodeOf (cw : Half) : Byte := cw.extractLsb' 0 8

/-- `CW[8]`, the buffer select (R98). -/
def bselOf (cw : Half) : BufSel := if cw.getLsbD 8 then .rsp else .req

/-- `CW[15:9]`, reserved (R98). -/
def reservedOf (cw : Half) : BitVec 7 := cw.extractLsb' 9 7

/-- An instruction that reads `wbytes` decodes only when they are exactly `len` bytes. -/
def decodeBytes (c : Command) (i : Instr) : Except DecodeError Instr :=
  if c.wbytes.length = c.len.toNat then .ok i else .error .wbytesLength

/-- The opcode map (R99) with each command's operand assembly (R101). -/
def decodeOp (b : BufSel) (c : Command) : Nat → Except DecodeError Instr
  | 0x01 => .ok (.init b)
  | 0x02 => .ok (.clear b)
  | 0x10 => .ok (.getSync b)
  | 0x11 => .ok (.getVer b)
  | 0x12 => .ok (.getFlags b)
  | 0x13 => .ok (.getErrno b)
  | 0x14 => .ok (.getMsgtype b)
  | 0x15 => .ok (.getRegarding b)
  | 0x16 => .ok (.getRsvd b)
  | 0x17 => .ok (.getCktype b)
  | 0x18 => .ok (.getImmlen b)
  | 0x19 => .ok (.getBytesrem b)
  | 0x20 => .ok (.setSync b (c.wdata.setWidth 16))
  | 0x21 => .ok (.setVer b (c.wdata.setWidth 16))
  | 0x22 => .ok (.setFlags b (c.wdata.setWidth 16))
  | 0x23 => .ok (.setErrno b (c.wdata.setWidth 16))
  | 0x24 => .ok (.setMsgtype b (c.wdata.setWidth 32))
  | 0x25 => .ok (.setRegarding b (c.wdata.setWidth 32))
  | 0x26 => .ok (.setRsvd b (c.wdata.setWidth 48))
  | 0x27 => .ok (.setCktype b (c.wdata.setWidth 8))
  | 0x28 => .ok (.setImmlen b (c.wdata.setWidth 8))
  | 0x29 => .ok (.setBytesrem b (c.wdata.setWidth 32))
  | 0x30 => .ok (.setImmByte b c.off (c.wdata.setWidth 8))
  | 0x31 => .ok (.setImmShort b c.off (c.wdata.setWidth 16))
  | 0x32 => .ok (.setImmInt b c.off (c.wdata.setWidth 32))
  | 0x33 => .ok (.setImmLong b c.off c.wdata)
  | 0x34 => .ok (.setImmFloat b c.off (c.wdata.setWidth 32))
  | 0x35 => .ok (.setImmDouble b c.off c.wdata)
  | 0x36 => decodeBytes c (.setImmBytes b c.off c.len c.wbytes)
  | 0x38 => .ok (.getImmByte b c.off)
  | 0x39 => .ok (.getImmShort b c.off)
  | 0x3A => .ok (.getImmInt b c.off)
  | 0x3B => .ok (.getImmLong b c.off)
  | 0x3C => .ok (.getImmFloat b c.off)
  | 0x3D => .ok (.getImmDouble b c.off)
  | 0x3E => .ok (.getImmBytes b c.off c.len)
  | 0x40 => .ok (.setPayByte b c.off (c.wdata.setWidth 8))
  | 0x41 => .ok (.setPayShort b c.off (c.wdata.setWidth 16))
  | 0x42 => .ok (.setPayInt b c.off (c.wdata.setWidth 32))
  | 0x43 => .ok (.setPayLong b c.off c.wdata)
  | 0x44 => .ok (.setPayFloat b c.off (c.wdata.setWidth 32))
  | 0x45 => .ok (.setPayDouble b c.off c.wdata)
  | 0x46 => decodeBytes c (.setPayBytes b c.off c.len c.wbytes)
  | 0x48 => .ok (.getPayByte b c.off)
  | 0x49 => .ok (.getPayShort b c.off)
  | 0x4A => .ok (.getPayInt b c.off)
  | 0x4B => .ok (.getPayLong b c.off)
  | 0x4C => .ok (.getPayFloat b c.off)
  | 0x4D => .ok (.getPayDouble b c.off)
  | 0x4E => .ok (.getPayBytes b c.off c.len)
  | 0x50 => .ok (.cksumCompute b)
  | 0x51 => .ok (.cksumMatch b)
  | 0x52 => .ok (.getCksum b)
  | 0x53 => decodeBytes c (.setCksum b c.len c.wbytes)
  | 0x54 => .ok (.setFooter b)
  | 0x55 => .ok (.getFooter b)
  | 0x56 => .ok (.checkFooter b)
  | 0x57 => .ok (.msgSize b)
  | 0x60 => decodeBytes c (.putAuto b c.len c.wbytes (c.wdata.setWidth 8))
  | 0x61 => .ok (.getAuto b)
  | 0x62 => .ok (.getString b (c.wdata.setWidth 8))
  | 0x70 => .ok (.finalize b (c.wdata.setWidth 32))
  | 0x71 => .ok (.hdrParse b)
  | 0x72 => .ok (.rspClassify b)
  | 0x73 =>
    match b with
    | .req => .ok (.xact (c.wdata.setWidth 32) (c.wdata.getLsbD 32) (c.wdata.extractLsb' 40 8)
        (c.wdata.extractLsb' 48 8) c.off c.len)
    | .rsp => .error .illegalOp
  | _ => .error .illegalOp

/-- The decoder, total on every command record: the reserved bits, then the opcode (R100). -/
def decode (c : Command) : Except DecodeError Instr :=
  if reservedOf c.cw = 0 then decodeOp (bselOf c.cw) c (opcodeOf c.cw).toNat
  else .error .illegalOp

/-! ### The encoder -/

/-- `bsel` as a bit (R98). -/
def BufSel.bit : BufSel → BitVec 1
  | .req => 0
  | .rsp => 1

/-- The command word of an opcode and a buffer select: `0000000b oooooooo` (R98). -/
def commandWord (op : Byte) (b : BufSel) : Half := 0#7 ++ b.bit ++ op

/-- The command record of an instruction; an operand the instruction does not read is 0 or empty. -/
def encode : Instr → Command
  | .init b => ⟨commandWord 0x01 b, 0, 0, 0, []⟩
  | .clear b => ⟨commandWord 0x02 b, 0, 0, 0, []⟩
  | .getSync b => ⟨commandWord 0x10 b, 0, 0, 0, []⟩
  | .getVer b => ⟨commandWord 0x11 b, 0, 0, 0, []⟩
  | .getFlags b => ⟨commandWord 0x12 b, 0, 0, 0, []⟩
  | .getErrno b => ⟨commandWord 0x13 b, 0, 0, 0, []⟩
  | .getMsgtype b => ⟨commandWord 0x14 b, 0, 0, 0, []⟩
  | .getRegarding b => ⟨commandWord 0x15 b, 0, 0, 0, []⟩
  | .getRsvd b => ⟨commandWord 0x16 b, 0, 0, 0, []⟩
  | .getCktype b => ⟨commandWord 0x17 b, 0, 0, 0, []⟩
  | .getImmlen b => ⟨commandWord 0x18 b, 0, 0, 0, []⟩
  | .getBytesrem b => ⟨commandWord 0x19 b, 0, 0, 0, []⟩
  | .setSync b v => ⟨commandWord 0x20 b, 0, 0, v.setWidth 64, []⟩
  | .setVer b v => ⟨commandWord 0x21 b, 0, 0, v.setWidth 64, []⟩
  | .setFlags b v => ⟨commandWord 0x22 b, 0, 0, v.setWidth 64, []⟩
  | .setErrno b v => ⟨commandWord 0x23 b, 0, 0, v.setWidth 64, []⟩
  | .setMsgtype b v => ⟨commandWord 0x24 b, 0, 0, v.setWidth 64, []⟩
  | .setRegarding b v => ⟨commandWord 0x25 b, 0, 0, v.setWidth 64, []⟩
  | .setRsvd b v => ⟨commandWord 0x26 b, 0, 0, v.setWidth 64, []⟩
  | .setCktype b v => ⟨commandWord 0x27 b, 0, 0, v.setWidth 64, []⟩
  | .setImmlen b v => ⟨commandWord 0x28 b, 0, 0, v.setWidth 64, []⟩
  | .setBytesrem b v => ⟨commandWord 0x29 b, 0, 0, v.setWidth 64, []⟩
  | .setImmByte b off v => ⟨commandWord 0x30 b, off, 0, v.setWidth 64, []⟩
  | .setImmShort b off v => ⟨commandWord 0x31 b, off, 0, v.setWidth 64, []⟩
  | .setImmInt b off v => ⟨commandWord 0x32 b, off, 0, v.setWidth 64, []⟩
  | .setImmLong b off v => ⟨commandWord 0x33 b, off, 0, v, []⟩
  | .setImmFloat b off v => ⟨commandWord 0x34 b, off, 0, v.setWidth 64, []⟩
  | .setImmDouble b off v => ⟨commandWord 0x35 b, off, 0, v, []⟩
  | .setImmBytes b off len wbytes => ⟨commandWord 0x36 b, off, len, 0, wbytes⟩
  | .getImmByte b off => ⟨commandWord 0x38 b, off, 0, 0, []⟩
  | .getImmShort b off => ⟨commandWord 0x39 b, off, 0, 0, []⟩
  | .getImmInt b off => ⟨commandWord 0x3A b, off, 0, 0, []⟩
  | .getImmLong b off => ⟨commandWord 0x3B b, off, 0, 0, []⟩
  | .getImmFloat b off => ⟨commandWord 0x3C b, off, 0, 0, []⟩
  | .getImmDouble b off => ⟨commandWord 0x3D b, off, 0, 0, []⟩
  | .getImmBytes b off len => ⟨commandWord 0x3E b, off, len, 0, []⟩
  | .setPayByte b off v => ⟨commandWord 0x40 b, off, 0, v.setWidth 64, []⟩
  | .setPayShort b off v => ⟨commandWord 0x41 b, off, 0, v.setWidth 64, []⟩
  | .setPayInt b off v => ⟨commandWord 0x42 b, off, 0, v.setWidth 64, []⟩
  | .setPayLong b off v => ⟨commandWord 0x43 b, off, 0, v, []⟩
  | .setPayFloat b off v => ⟨commandWord 0x44 b, off, 0, v.setWidth 64, []⟩
  | .setPayDouble b off v => ⟨commandWord 0x45 b, off, 0, v, []⟩
  | .setPayBytes b off len wbytes => ⟨commandWord 0x46 b, off, len, 0, wbytes⟩
  | .getPayByte b off => ⟨commandWord 0x48 b, off, 0, 0, []⟩
  | .getPayShort b off => ⟨commandWord 0x49 b, off, 0, 0, []⟩
  | .getPayInt b off => ⟨commandWord 0x4A b, off, 0, 0, []⟩
  | .getPayLong b off => ⟨commandWord 0x4B b, off, 0, 0, []⟩
  | .getPayFloat b off => ⟨commandWord 0x4C b, off, 0, 0, []⟩
  | .getPayDouble b off => ⟨commandWord 0x4D b, off, 0, 0, []⟩
  | .getPayBytes b off len => ⟨commandWord 0x4E b, off, len, 0, []⟩
  | .cksumCompute b => ⟨commandWord 0x50 b, 0, 0, 0, []⟩
  | .cksumMatch b => ⟨commandWord 0x51 b, 0, 0, 0, []⟩
  | .getCksum b => ⟨commandWord 0x52 b, 0, 0, 0, []⟩
  | .setCksum b len wbytes => ⟨commandWord 0x53 b, 0, len, 0, wbytes⟩
  | .setFooter b => ⟨commandWord 0x54 b, 0, 0, 0, []⟩
  | .getFooter b => ⟨commandWord 0x55 b, 0, 0, 0, []⟩
  | .checkFooter b => ⟨commandWord 0x56 b, 0, 0, 0, []⟩
  | .msgSize b => ⟨commandWord 0x57 b, 0, 0, 0, []⟩
  | .putAuto b len wbytes t => ⟨commandWord 0x60 b, 0, len, t.setWidth 64, wbytes⟩
  | .getAuto b => ⟨commandWord 0x61 b, 0, 0, 0, []⟩
  | .getString b t => ⟨commandWord 0x62 b, 0, 0, t.setWidth 64, []⟩
  | .finalize b t => ⟨commandWord 0x70 b, 0, 0, t.setWidth 64, []⟩
  | .hdrParse b => ⟨commandWord 0x71 b, 0, 0, 0, []⟩
  | .rspClassify b => ⟨commandWord 0x72 b, 0, 0, 0, []⟩
  | .xact t always decOp decArg off len =>
    ⟨commandWord 0x73 .req, off, len, 0#8 ++ decArg ++ decOp ++ 0#7 ++ BitVec.ofBool always ++ t, []⟩

/-! ### The host's reading of one table row -/

/-- The command record of a table row's bits: the row gives the 16-bit command word, and every operand
is zero or empty. -/
def tableCommand (nbits w : Nat) : Command :=
  { cw := BitVec.ofNat 16 (w % 2 ^ nbits), off := 0, len := 0, wdata := 0, wbytes := [] }

/-- The instruction the decoder reads from a table row's bits. -/
def decodeTableWord (nbits w : Nat) : Option Instr :=
  match decode (tableCommand nbits w) with
  | .ok i => some i
  | .error _ => none

end Sys2Proof
end

