-- ==== Sys2Proof/Machine/State.lean ====
section
/-! DEFINITION. The state of the block (spec/10_state.md), its reset (spec/70_reset_and_hazards.md R400), and the reasons a step can stop. -/

namespace Sys2Proof.Machine

/-- The contents of one buffer: the bytes that differ from `unlistedByte`, addresses strictly rising. -/
abbrev Memory := List Host.Cell

/-- What an address of a buffer that is not listed reads as. The spec leaves the reset contents open
(R36, R400, R401). DESIGN CHOICE, unsafe: log entry 3. -/
def unlistedByte : Byte := 0

/-- The state of the transaction sequencer (R32), in the order of R94. -/
inductive XState
  | idle
  | requestFinalized
  | sent
  | awaitingHeader
  | awaitingRemainder
  | decoded
  | success
  | failed
deriving DecidableEq, Repr

/-- A command fault with its `info` value (spec/60_exceptions.md R360). A command that faults is a NEXT
state with that status in its response (R362); it does not stop the machine. -/
inductive CmdFault
  /-- A span the command needs ends beyond the capacity; the end offset needed. -/
  | bufferTooSmall (endOffset : Nat)
  /-- An access leaves the immediate region or the payload; the offending offset. -/
  | offsetRange (offset : Nat)
  /-- Bytes-remaining is below 20 where `N`, `ckOff` or `ftOff` is needed; its value. -/
  | badLength (br : Nat)
  /-- An operand is outside its legal set; the operand. -/
  | badValue (v : Nat)
  /-- Not a defined command, or an inadmissible decode opcode. -/
  | illegalOp
deriving DecidableEq, Repr

/-- The results of a command that completes (R97); a result its rule does not name is 0 or empty. -/
structure Results where
  rdata : Dword := 0
  rbytes : List Byte := []
  cnt : Word := 0
deriving DecidableEq, Repr

/-- The response record (R97): what the host reads when a command ends. -/
structure Response where
  status : Byte
  rdata : Dword
  rbytes : List Byte
  cnt : Word
  xres : Word48
deriving DecidableEq, Repr

/-- One answer of the transport to one call (R310 to R313): a status with the bytes obtained (a send
carries none back), or no answer at all (spec/93 U44). -/
inductive TransportAnswer
  | answered (status : TransportStatus) (bytes : List Byte)
  | silent
deriving DecidableEq, Repr

/-- The whole state. `params`, `req`, `rsp` and `xstate` are the block's own (R6, R20, R32); the other
four stand for what surrounds it: the commands the host will present, the response it last read, the
answers the transport will give and the calls the block has made of it (log entries 1, 4, 5). -/
structure State where
  /-- The open parameters (R6); no step changes them. -/
  params : Params
  /-- `REQ`, the request buffer (R20). -/
  req : Memory
  /-- `RSP`, the response buffer (R20). -/
  rsp : Memory
  /-- The sequencer state (R32). -/
  xstate : XState
  /-- The commands the host presents, the next one first (R5, R66). -/
  port : List Command
  /-- The response of the last command that ended, none before the first (R31, R97). -/
  response : Option Response
  /-- The answers the transport will give, the next one first; when it is empty the next answer is the
  free value `Config.freeAnswer` (R310). -/
  answers : List TransportAnswer
  /-- The calls made of the transport, newest first (R311, R312). -/
  calls : List TransportCall
deriving DecidableEq, Repr

/-- The reasons the machine stops. The block's own command faults are not among them: they are responses
(R362, R364). -/
inductive Fault
  /-- Raised by `XACT` when the transport never answers one of its calls: the block has no timer of its
  own and no cancel, so it is stuck (spec/93 U44). DEDUCED, log entry 9. Safe: nothing is claimed of such a run. -/
  | transportNeverAnswers
deriving DecidableEq, Repr

/-- The reasons a command is refused. -/
inductive Refusal
  /-- No meaning for the instruction yet. Safe. -/
  | notModelled (mnemonic : String)
  /-- Raised by the decoder's caller when `wbytes` does not hold the `len` bytes the command reads: a
  record outside the interface contract (R97), which spec/93 U29 says to refuse. Safe. -/
  | wbytesLength
deriving DecidableEq, Repr

/-- The machine after its reset event (R400) with the given parameters and buffer contents, which the
spec says a model draws (R401): `xstate` is `Idle` and nothing is in progress. -/
def State.resetWith (p : Params) (req rsp : Memory) : State :=
  { params := p, req := req, rsp := rsp, xstate := .idle,
    port := [], response := none, answers := [], calls := [] }

/-- The machine right after reset: nothing is listed in either buffer (log entry 3) and the parameters
are the defaults (log entry 2). -/
def State.reset : State := State.resetWith Params.default [] []

end Sys2Proof.Machine
end

