-- ==== Sys2Proof/Machine/Memory.lean ====
section
/-! DEFINITION. Reading and writing the bytes of one buffer (spec/00_scope.md R8, spec/20_memory.md R50), and the canonical form of a buffer. -/

namespace Sys2Proof.Machine

/-- `B[a]`. -/
def readByte : Memory → Nat → Byte
  | [], _ => unlistedByte
  | (k, v) :: rest, a => if k = a then v else readByte rest a

/-- The buffer with address `a` unlisted. -/
def eraseAt (m : Memory) (a : Nat) : Memory := m.filter (fun c => c.1 != a)

/-- The buffer with the cell `(a, v)` put before the first higher address. -/
def insertAt : Memory → Nat → Byte → Memory
  | [], a, v => [(a, v)]
  | c :: rest, a, v => if a < c.1 then (a, v) :: c :: rest else c :: insertAt rest a v

/-- `B[a] <- v`. Writing what an unlisted address reads as removes the cell. -/
def writeByte (m : Memory) (a : Nat) (v : Byte) : Memory :=
  if v = unlistedByte then eraseAt m a else insertAt (eraseAt m a) a v

/-- `MemRead(B, a, n)`: the bytes `B[a..a+n)`, lowest address first. -/
def memRead (m : Memory) (a : Nat) : Nat → List Byte
  | 0 => []
  | n + 1 => readByte m a :: memRead m (a + 1) n

/-- `MemWrite(B, a, s)`: the sequence `s` at `B[a..a+len(s))`. -/
def memWrite (m : Memory) (a : Nat) : List Byte → Memory
  | [] => m
  | v :: s => memWrite (writeByte m a v) (a + 1) s

/-- Every byte `0x00`: what `CLEAR` leaves (R133), and `INIT` before it writes its four fields (R131). -/
def zeroed (_m : Memory) : Memory := []

/-- The canonical form: addresses strictly rising, and no cell that an unlisted address would read as. -/
abbrev Memory.wf (m : Memory) : Prop :=
  m.Pairwise (fun c d => c.1 < d.1) ∧ ∀ c ∈ m, c.2 ≠ unlistedByte

/-- No byte is listed at or beyond the capacity: the buffer's address space is `0 .. CAP-1` (R52). -/
abbrev Memory.within (m : Memory) (cap : Nat) : Prop := ∀ c ∈ m, c.1 < cap

end Sys2Proof.Machine
end

