-- ==== Sys2Proof/Machine/Operands.lean ====
section
/-! DEFINITION. Byte order (spec/20_memory.md R50), the operand forms (spec/30_encoding.md R101), the header's fields (spec/10_state.md R22) and the derived quantities of a buffer (spec/20_memory.md R60 to R65). -/

namespace Sys2Proof.Machine

/-! ### Byte order -/

/-- `LE(s)`: the little-endian value of a byte sequence (R8). -/
def leValue : List Byte → Nat
  | [] => 0
  | v :: s => v.toNat + 256 * leValue s

/-- `bytes_n(v)`: the `n`-byte little-endian sequence of `v` (R8); higher bits are ignored. -/
def leBytes : Nat → Nat → List Byte
  | 0, _ => []
  | n + 1, v => BitVec.ofNat 8 v :: leBytes n (v / 256)

/-! ### Selecting a buffer -/

/-- The selected buffer's bytes. -/
def State.buf (s : State) : BufSel → Memory
  | .req => s.req
  | .rsp => s.rsp

/-- The state with the selected buffer's bytes replaced. -/
def State.setBuf (s : State) : BufSel → Memory → State
  | .req, m => { s with req := m }
  | .rsp, m => { s with rsp := m }

/-- `CAP(B)`. -/
def State.cap (s : State) : BufSel → Nat
  | .req => s.params.capReq.bytes
  | .rsp => s.params.capRsp.bytes

/-- `B[a]` of the selected buffer. -/
def State.byte (s : State) (b : BufSel) (a : Nat) : Byte := readByte (s.buf b) a

/-! ### Header fields -/

/-- A header field: its offset and width in bytes (R22, R140). -/
structure Field where
  offset : Nat
  width : Nat
deriving DecidableEq, Repr

def fSync : Field := ⟨0, 2⟩
def fVer : Field := ⟨2, 2⟩
def fFlags : Field := ⟨4, 2⟩
def fErrno : Field := ⟨6, 2⟩
def fMsgtype : Field := ⟨8, 4⟩
def fRegarding : Field := ⟨12, 4⟩
def fRsvd : Field := ⟨16, 6⟩
def fCktype : Field := ⟨22, 1⟩
def fImmlen : Field := ⟨23, 1⟩
def fBytesrem : Field := ⟨40, 4⟩

/-- The value of a field: `LE(MemRead(B, o, w))` (R141). -/
def getField (m : Memory) (f : Field) : Nat := leValue (memRead m f.offset f.width)

/-- `MemWrite(B, o, bytes_w(v))` (R142). -/
def setField (m : Memory) (f : Field) (v : Nat) : Memory := memWrite m f.offset (leBytes f.width v)

/-! ### Fixed patterns -/

/-- The start sync as stored (R81). -/
def syncBytes : List Byte := [0xC1, 0xC0]

/-- The protocol version (R82). -/
def protocolVersion : Nat := 0x1100

/-- The footer as stored (R83). -/
def footerBytes : List Byte := [0xC5, 0xC4, 0xC3, 0xC2]

/-! ### Derived quantities, computed afresh at every use (R21) -/

/-- `BR(B)` (R60). -/
def brOf (m : Memory) : Nat := getField m fBytesrem

/-- `N(B) = BR(B) - 20`, used only where `BR(B) >= 20` has been tested (R61). -/
def payLen (m : Memory) : Nat := brOf m - minBr

/-- `ckOff(B) = 44 + N(B)` (R62). -/
def ckOff (m : Memory) : Nat := hdrLen + payLen m

/-- `ftOff(B) = ckOff(B) + 16` (R63). -/
def ftOff (m : Memory) : Nat := ckOff m + ckLen

/-- The message size `44 + BR(B)`, in the naturals (R65). -/
def msgLen (m : Memory) : Nat := hdrLen + brOf m

/-! ### Operands packed in `wdata` -/

/-- The record a decode command is run with inside `XACT` (spec/47_transaction.md R331): `bsel` is 1,
`wdata[7:0]` is `decArg`, `off` and `len` are those of the `XACT` record. -/
def decodeStepCommand (decOp decArg : Byte) (off len : Word) : Command :=
  { cw := commandWord decOp .rsp, off := off, len := len, wdata := decArg.setWidth 64, wbytes := [] }

end Sys2Proof.Machine
end

