-- ==== Sys2Proof/Machine/Codes.lean ====
section
/-! DEFINITION. The numeric codes of the enumerations (spec/30_encoding.md R93, R94; spec/60_exceptions.md R360; spec/47_transaction.md R340) and the names of the device's error numbers (R91, R92). -/

namespace Sys2Proof.Machine

/-- The code of a transport status (R93). -/
def statusCode : TransportStatus → BitVec 4
  | .success => 0
  | .pending => 1
  | .portError => 2
  | .nullBuffer => 3
  | .outOfRange => 4
  | .timeout => 5
  | .insufficientData => 6
  | .pipeError => 7
  | .otherException => 8

/-- The code of a sequencer state (R94). -/
def xstateCode : XState → BitVec 3
  | .idle => 0
  | .requestFinalized => 1
  | .sent => 2
  | .awaitingHeader => 3
  | .awaitingRemainder => 4
  | .decoded => 5
  | .success => 6
  | .failed => 7

/-- The `status` code of a command that completed (R360). -/
def okCode : Byte := 0

/-- The `status` code of a command fault (R360). -/
def CmdFault.code : CmdFault → Byte
  | .bufferTooSmall _ => 1
  | .offsetRange _ => 2
  | .badLength _ => 3
  | .badValue _ => 4
  | .illegalOp => 5

/-- The `info` value of a command fault (R360). -/
def CmdFault.info : CmdFault → Nat
  | .bufferTooSmall n => n
  | .offsetRange n => n
  | .badLength n => n
  | .badValue n => n
  | .illegalOp => 0

/-- How a transaction ended (R340). -/
inductive XKind
  | success
  | ioFailure
  | protocolFailure
  | framingError
  | decodeFault
deriving DecidableEq, Repr

/-- The code of a kind (R340). -/
def XKind.code : XKind → BitVec 4
  | .success => 0
  | .ioFailure => 1
  | .protocolFailure => 2
  | .framingError => 3
  | .decodeFault => 4

/-- The transaction result before it is packed (R340). A field that does not belong to the kind keeps
its default, whose code is 0. -/
structure XResult where
  kind : XKind
  io : TransportStatus := .success
  step : BitVec 4
  xs : XState
  rspValid : Bool := false
  errno : Half := 0
  fault : Byte := 0
deriving DecidableEq, Repr

/-- `xres`, 48 bits (R340): from the top, eight zero bits, `fault`, `errno`, `rspValid`, `xs`, `step`,
`io`, `kind`. -/
def XResult.pack (x : XResult) : Word48 :=
  0#8 ++ x.fault ++ x.errno ++ BitVec.ofBool x.rspValid ++ xstateCode x.xs ++ x.step
    ++ statusCode x.io ++ x.kind.code

/-- `io_ok`, transaction-level success (R340). -/
def XKind.ioOk (k : XKind) : Bool := k != .ioFailure && k != .framingError

/-- `msg_ok`, message-level success (R340). -/
def XKind.msgOk (k : XKind) : Bool := k == .success || k == .decodeFault

/-- The meanings of the sixteen protocol error codes, in order (R91). -/
def errMeanings : List String :=
  ["success", "bad protocol", "unknown message", "bad checksum", "message too large",
   "payload mismatch", "payload invalid", "device-not-ready", "unknown checksum type",
   "unexpected reset", "too many buses", "out of memory", "nonexistent info requested",
   "internal error", "malformed end", "scan interrupted"]

/-- `errName(code)`: the lookup the host makes for a device's error number (R91, R92); the block itself
returns the number only. -/
def errName (code : Half) : String :=
  if code.toNat < 16 then errMeanings.getD code.toNat ""
  else if 100 ≤ code.toNat ∧ code.toNat ≤ 104 then
    "firmware-reprogramming-" ++ toString code.toNat
  else "unknown-" ++ toString code.toNat

end Sys2Proof.Machine
end

