-- ==== Sys2Proof/Machine/Flags.lean ====
section
/-! DEFINITION. The flags: bits of the 16-bit header field `FLAGS` (spec/10_state.md R24, spec/30_encoding.md R85, R86). The block has no condition codes of its own. -/

namespace Sys2Proof.Machine

/-- The flag at a bit position of `FLAGS(B)`. -/
def flagAt (m : Memory) (pos : Fin 16) : Bool := (getField m fFlags).testBit pos.val

/-- The mask of a bit position in `FLAGS`. -/
def flagMask (pos : Fin 16) : Half := 1#16 <<< pos.val

/-- device-response: written by the device; no command reads it (R24). -/
def deviceResponse (p : FlagPositions) (m : Memory) : Bool := flagAt m p.response
/-- device-ack: written by the device; no command reads it (R24). -/
def deviceAck (p : FlagPositions) (m : Memory) : Bool := flagAt m p.ack
/-- `ackRequested(B)` (R86). -/
def ackRequested (p : FlagPositions) (m : Memory) : Bool := flagAt m p.ackRequest
/-- `nack(B)` (R86). -/
def nackSet (p : FlagPositions) (m : Memory) : Bool := flagAt m p.nack
/-- `exception(B)` (R86). -/
def exceptionSet (p : FlagPositions) (m : Memory) : Bool := flagAt m p.deviceException
/-- The first deprecated bit; no command reads it (R24). -/
def deprecatedOne (p : FlagPositions) (m : Memory) : Bool := flagAt m p.deprecated1
/-- The second deprecated bit; no command reads it (R24). -/
def deprecatedTwo (p : FlagPositions) (m : Memory) : Bool := flagAt m p.deprecated2

/-- A flags word with the host-ack-request bit set or cleared, the others kept: the value the
pseudo-command `SET_ACK_REQUEST` writes (R103). -/
def withAckRequest (p : FlagPositions) (f : Half) (v : Bool) : Half :=
  (f &&& ~~~ flagMask p.ackRequest) ||| (if v then flagMask p.ackRequest else 0)

end Sys2Proof.Machine
end

