-- ==== Sys2Proof/Machine/Ops.lean ====
section
/-! DEFINITION. The shared operations: ending a command, taking a command fault, the window check, the region reads and writes, the transport calls, and taking the next command from the host. -/

namespace Sys2Proof.Machine

/-- What one command step gives. -/
abbrev StepOutcome := Host.Outcome State Fault Refusal

/-! ### Ending a command -/

/-- The response of a command that completed (R9, R97). -/
def okResponse (r : Results) : Response :=
  { status := okCode, rdata := r.rdata, rbytes := r.rbytes, cnt := r.cnt, xres := 0 }

/-- The response of a command that faulted: the code and `info`, everything else 0 or empty (R362). -/
def faultResponse (f : CmdFault) : Response :=
  { status := f.code, rdata := BitVec.ofNat 64 f.info, rbytes := [], cnt := 0, xres := 0 }

/-- The state in which the host reads a response. -/
def State.respond (s : State) (r : Response) : State := { s with response := some r }

/-- TAKING A COMMAND FAULT (R9, R362): the response carries the fault; no byte of either buffer, not
`xstate` and no other state changes, and the transport is not called. There is no handler and no
cause register, and no command returns from a fault: the next command is taken as if the faulting one
had not been issued (R363). -/
def takeFault (f : CmdFault) (s : State) : StepOutcome := .next (s.respond (faultResponse f))

/-- The end of a command that changes no state (R59): its results, or its fault. -/
def answerQuery (s : State) : Except CmdFault Results → StepOutcome
  | .ok r => .next (s.respond (okResponse r))
  | .error f => takeFault f s

/-- The end of a command that writes the selected buffer: the new contents with its results, or its
fault, in which case nothing is written (R9). -/
def commitBuffer (s : State) (b : BufSel) : Except CmdFault (Memory × Results) → StepOutcome
  | .ok (m, r) => .next ((s.setBuf b m).respond (okResponse r))
  | .error f => takeFault f s

/-- The results of a command that returns one scalar. -/
def scalarResult (v : Nat) : Results := { rdata := BitVec.ofNat 64 v }

/-- The results of a command that returns a byte sequence: `rbytes` and `cnt = len(rbytes)`. -/
def bytesResult (s : List Byte) : Results := { rbytes := s, cnt := BitVec.ofNat 32 s.length }

/-! ### The window check and the regions -/

/-- `Window(B)` (R64): `BadLength`, then `BufferTooSmall`. -/
def window (cap : Nat) (m : Memory) : Except CmdFault Unit :=
  if brOf m < minBr then .error (.badLength (brOf m))
  else if cap < msgLen m then .error (.bufferTooSmall (msgLen m))
  else .ok ()

/-- Run `k` if `Window(B)` passes. -/
def withWindow {α : Type} (cap : Nat) (m : Memory) (k : Except CmdFault α) : Except CmdFault α :=
  match window cap m with
  | .ok () => k
  | .error f => .error f

/-- `ImmWrite(B, off, s)` (R181): the buffer and the count of bytes written. -/
def immWrite (m : Memory) (off : Nat) (s : List Byte) : Except CmdFault (Memory × Nat) :=
  if immCap < off then .error (.offsetRange off)
  else
    let w := min s.length (immCap - off)
    .ok (setField (memWrite m (immBase + off) (s.take w)) fImmlen (off + w), w)

/-- `ImmRead(B, off, n)` (R182). -/
def immRead (m : Memory) (off n : Nat) : Except CmdFault (List Byte) :=
  if immCap < off + n then .error (.offsetRange (off + n))
  else .ok (memRead m (immBase + off) n)

/-- `PayWrite(B, off, s)` (R213): the buffer and the count of bytes written. -/
def payWrite (cap : Nat) (m : Memory) (off : Nat) (s : List Byte) : Except CmdFault (Memory × Nat) :=
  if cap < hdrLen + off + s.length then .error (.bufferTooSmall (hdrLen + off + s.length))
  else .ok (setField (memWrite m (hdrLen + off) s) fBytesrem (off + s.length + minBr), s.length)

/-- `PayRead(B, off, n)` (R214): three tests, in the order written. -/
def payRead (cap : Nat) (m : Memory) (off n : Nat) : Except CmdFault (List Byte) :=
  if brOf m < minBr then .error (.badLength (brOf m))
  else if brOf m - minBr < off + n then .error (.offsetRange (off + n))
  else if cap < hdrLen + off + n then .error (.bufferTooSmall (hdrLen + off + n))
  else .ok (memRead m (hdrLen + off) n)

/-- A region write as a command's end: `cnt` is the count of bytes written. -/
def countResult : Except CmdFault (Memory × Nat) → Except CmdFault (Memory × Results)
  | .ok (m, w) => .ok (m, { cnt := BitVec.ofNat 32 w })
  | .error f => .error f

/-- A region read as a scalar result: `zext_64(LE(...))`. -/
def scalarRead : Except CmdFault (List Byte) → Except CmdFault Results
  | .ok s => .ok (scalarResult (leValue s))
  | .error f => .error f

/-- A region read as a byte sequence. -/
def bytesRead : Except CmdFault (List Byte) → Except CmdFault Results
  | .ok s => .ok (bytesResult s)
  | .error f => .error f

/-! ### The transport contract -/

/-- One blocking call of the transport (R310): the call joins the history, and the answer is the next of
the script, or the free answer to that history when the script is empty. `none` when the transport
never answers (spec/93 U44). -/
def callTransport (c : TransportCall) (s : State) : Option (TransportStatus × List Byte × State) :=
  match s.answers with
  | [] =>
    some ((Config.freeAnswer (c :: s.calls)).1, (Config.freeAnswer (c :: s.calls)).2,
      { s with calls := c :: s.calls })
  | .silent :: _ => none
  | .answered st bytes :: rest => some (st, bytes, { s with calls := c :: s.calls, answers := rest })

/-- `n` free bytes from buffer offset `a` on (R312). -/
def freeBytes (calls : List TransportCall) (a : Nat) : Nat → List Byte
  | 0 => []
  | n + 1 => Config.freeByte calls a :: freeBytes calls (a + 1) n

/-- `receiveBytes(RSP, offset, count)` (R312): the status, the count `n` of bytes obtained, and the state.
A success that delivered all of them puts them in the span; otherwise each byte of the span is a free
value. No other byte of `RSP` changes. DEDUCED, safe: log entries 6 and 8. -/
def receiveBytes (offset count : Nat) (s : State) : Option (TransportStatus × Nat × State) :=
  match callTransport (.receiveBytes offset count) s with
  | none => none
  | some (st, bytes, t) =>
    let n := min bytes.length count
    if st = .success ∧ n = count then
      some (st, n, { t with rsp := memWrite t.rsp offset (bytes.take count) })
    else
      some (st, n, { t with rsp := memWrite t.rsp offset (freeBytes t.calls offset count) })

/-! ### The reset event -/

/-- The reset event in a running machine (spec/70_reset_and_hazards.md R400): the buffers take the drawn
contents (R401), `xstate` is `Idle` and no command is in progress; the parameters, the transport and what the
host goes on to present are outside the block and stay. When the event may arrive R400 leaves open: here it comes
between two commands only, never while `XACT` waits. DESIGN CHOICE, unsafe: log entry 19. -/
def State.resetEvent (s : State) (req rsp : Memory) : State :=
  { s with req := req, rsp := rsp, xstate := .idle, response := none }

/-! ### Taking the next command -/

/-- The next command the host presents, if any, and the state with it taken (R5, R66). -/
def fetch (s : State) : Option (Command × State) :=
  match s.port with
  | [] => none
  | c :: rest => some (c, { s with port := rest })

/-- The state in which the host presents `c` next. -/
def State.present (s : State) (c : Command) : State := { s with port := c :: s.port }

/-- What the block does with a record that is no instruction: an undefined command word faults `IllegalOp`
before any operand is looked at (R100, R365); a record outside the contract on `wbytes` is refused
(spec/93 U29). -/
def rejectCommand (e : DecodeError) (s : State) : StepOutcome :=
  match e with
  | .illegalOp => takeFault .illegalOp s
  | .wbytesLength => .refused .wbytesLength

end Sys2Proof.Machine
end

