-- ==== Sys2Proof/Machine/Lifecycle.lean ====
section
/-! DEFINITION. The buffer lifecycle commands (spec/41_lifecycle.md). -/

namespace Sys2Proof.Machine

/-- The buffer `INIT` leaves (R131): all bytes zero, then sync, version, bytes-remaining 20, footer at 60. -/
def initBuffer (m : Memory) : Memory :=
  let m := zeroed m
  let m := memWrite m fSync.offset syncBytes
  let m := setField m fVer protocolVersion
  let m := setField m fBytesrem minBr
  memWrite m (hdrLen + minBr - ftLen) footerBytes

/-- `INIT` (R131). -/
def execInit (b : BufSel) (s : State) : StepOutcome :=
  commitBuffer s b (.ok (initBuffer (s.buf b), {}))

/-- `CLEAR` (R133). -/
def execClear (b : BufSel) (s : State) : StepOutcome :=
  commitBuffer s b (.ok (zeroed (s.buf b), {}))

end Sys2Proof.Machine
end

