-- ==== Sys2Proof/Machine/Md5.lean ====
section
/-! DEFINITION. MD5, the checksum generator's function (spec/45_checksum_footer.md R241 to R245). The algorithm is general knowledge in the spec. UNVERIFIED: log entry 12. -/

namespace Sys2Proof.Machine

/-- `rotl32(x, c)` for `1 <= c <= 31` (R241). -/
def rotl32 (x : Word) (c : Nat) : Word := (x <<< c) ||| (x >>> (32 - c))

/-- The per-step rotation amounts `S[0..63]` (R243). -/
def md5Shifts : List Nat :=
  [7, 12, 17, 22, 7, 12, 17, 22, 7, 12, 17, 22, 7, 12, 17, 22]
    ++ [5, 9, 14, 20, 5, 9, 14, 20, 5, 9, 14, 20, 5, 9, 14, 20]
    ++ [4, 11, 16, 23, 4, 11, 16, 23, 4, 11, 16, 23, 4, 11, 16, 23]
    ++ [6, 10, 15, 21, 6, 10, 15, 21, 6, 10, 15, 21, 6, 10, 15, 21]

/-- The additive constants `K[0..15]` (R243). -/
def md5K0 : List Word :=
  [0xD76AA478, 0xE8C7B756, 0x242070DB, 0xC1BDCEEE,
   0xF57C0FAF, 0x4787C62A, 0xA8304613, 0xFD469501,
   0x698098D8, 0x8B44F7AF, 0xFFFF5BB1, 0x895CD7BE,
   0x6B901122, 0xFD987193, 0xA679438E, 0x49B40821]

/-- The additive constants `K[16..31]` (R243). -/
def md5K1 : List Word :=
  [0xF61E2562, 0xC040B340, 0x265E5A51, 0xE9B6C7AA,
   0xD62F105D, 0x02441453, 0xD8A1E681, 0xE7D3FBC8,
   0x21E1CDE6, 0xC33707D6, 0xF4D50D87, 0x455A14ED,
   0xA9E3E905, 0xFCEFA3F8, 0x676F02D9, 0x8D2A4C8A]

/-- The additive constants `K[32..47]` (R243). -/
def md5K2 : List Word :=
  [0xFFFA3942, 0x8771F681, 0x6D9D6122, 0xFDE5380C,
   0xA4BEEA44, 0x4BDECFA9, 0xF6BB4B60, 0xBEBFBC70,
   0x289B7EC6, 0xEAA127FA, 0xD4EF3085, 0x04881D05,
   0xD9D4D039, 0xE6DB99E5, 0x1FA27CF8, 0xC4AC5665]

/-- The additive constants `K[48..63]` (R243). -/
def md5K3 : List Word :=
  [0xF4292244, 0x432AFF97, 0xAB9423A7, 0xFC93A039,
   0x655B59C3, 0x8F0CCC92, 0xFFEFF47D, 0x85845DD1,
   0x6FA87E4F, 0xFE2CE6E0, 0xA3014314, 0x4E0811A1,
   0xF7537E82, 0xBD3AF235, 0x2AD7D2BB, 0xEB86D391]

/-- The additive constants `K[0..63]` (R243). -/
def md5K : List Word := md5K0 ++ md5K1 ++ md5K2 ++ md5K3

/-- The four chaining words. -/
structure Md5State where
  a : Word
  b : Word
  c : Word
  d : Word
deriving DecidableEq, Repr

/-- The initial chaining values (R243). -/
def md5Init : Md5State := ⟨0x67452301, 0xEFCDAB89, 0x98BADCFE, 0x10325476⟩

/-- The least number of zero bytes that makes `L + 1 + z` congruent to 56 modulo 64 (R242). -/
def md5ZeroCount (len : Nat) : Nat := (119 - len % 64) % 64

/-- The padded input `p` (R242). -/
def md5Pad (m : List Byte) : List Byte :=
  m ++ [0x80] ++ List.replicate (md5ZeroCount m.length) 0 ++ leBytes 8 (8 * m.length)

/-- `M[g]`: the `g`-th little-endian word of a block (R242). -/
def md5Word (block : List Byte) (g : Nat) : Word :=
  BitVec.ofNat 32 (leValue ((block.drop (4 * g)).take 4))

/-- The round function's value and word index at step `i` (R244). -/
def md5Round (i : Nat) (x : Md5State) : Word × Nat :=
  if i < 16 then ((x.b &&& x.c) ||| (~~~ x.b &&& x.d), i)
  else if i < 32 then ((x.d &&& x.b) ||| (~~~ x.d &&& x.c), (5 * i + 1) % 16)
  else if i < 48 then (x.b ^^^ x.c ^^^ x.d, (3 * i + 5) % 16)
  else (x.c ^^^ (x.b ||| ~~~ x.d), (7 * i) % 16)

/-- One of the 64 steps (R244); additions are modulo `2^32`. -/
def md5Step (block : List Byte) (i : Nat) (x : Md5State) : Md5State :=
  let f := (md5Round i x).1 + x.a + md5K.getD i 0 + md5Word block (md5Round i x).2
  { a := x.d, b := x.b + rotl32 f (md5Shifts.getD i 0), c := x.b, d := x.c }

/-- The steps `i .. i + n - 1` in order. -/
def md5Steps (block : List Byte) : Nat → Nat → Md5State → Md5State
  | _, 0, x => x
  | i, n + 1, x => md5Steps block (i + 1) n (md5Step block i x)

/-- One block: sixty-four steps, then the chaining words are added (R244). -/
def md5Block (x : Md5State) (block : List Byte) : Md5State :=
  let y := md5Steps block 0 64 x
  { a := x.a + y.a, b := x.b + y.b, c := x.c + y.c, d := x.d + y.d }

/-- The first `n` blocks of 64 bytes, in order. -/
def md5Blocks : Nat → Md5State → List Byte → Md5State
  | 0, x, _ => x
  | n + 1, x, p => md5Blocks n (md5Block x (p.take 64)) (p.drop 64)

/-- `MD5(m)`: sixteen bytes, each word little-endian, `a0` first (R245). -/
def md5 (m : List Byte) : List Byte :=
  let x := md5Blocks ((md5Pad m).length / 64) md5Init (md5Pad m)
  leBytes 4 x.a.toNat ++ leBytes 4 x.b.toNat ++ leBytes 4 x.c.toNat ++ leBytes 4 x.d.toNat

end Sys2Proof.Machine
end

