-- ==== Sys2Proof/Machine/Checksum.lean ====
section
/-! DEFINITION. The checksum, footer and size commands (spec/45_checksum_footer.md). -/

namespace Sys2Proof.Machine

/-- `Expected(B)` (R250): MD5 of the bytes before the checksum region if the checksum type is 1, else
sixteen zero bytes. -/
def expectedChecksum (m : Memory) : List Byte :=
  if getField m fCktype = 1 then md5 (memRead m 0 (ckOff m)) else List.replicate ckLen 0

/-- The buffer with the expected checksum in place. -/
def writeChecksum (m : Memory) : Memory := memWrite m (ckOff m) (expectedChecksum m)

/-- The buffer with the footer in place. -/
def writeFooter (m : Memory) : Memory := memWrite m (ftOff m) footerBytes

/-- Whether the footer is in place. -/
def footerOk (m : Memory) : Bool := memRead m (ftOff m) ftLen == footerBytes

/-- `CKSUM_COMPUTE` (R252). -/
def execCksumCompute (b : BufSel) (s : State) : StepOutcome :=
  commitBuffer s b (withWindow (s.cap b) (s.buf b) (.ok (writeChecksum (s.buf b), {})))

/-- What `CKSUM_MATCH` returns (R255). -/
def queryCksumMatch (b : BufSel) (s : State) : Except CmdFault Results :=
  withWindow (s.cap b) (s.buf b)
    (.ok (scalarResult (if memRead (s.buf b) (ckOff (s.buf b)) ckLen = expectedChecksum (s.buf b) then 1 else 0)))

/-- `CKSUM_MATCH` (R255). -/
def execCksumMatch (b : BufSel) (s : State) : StepOutcome := answerQuery s (queryCksumMatch b s)

/-- What `GET_CKSUM` returns (R257). -/
def queryGetCksum (b : BufSel) (s : State) : Except CmdFault Results :=
  withWindow (s.cap b) (s.buf b) (.ok (bytesResult (memRead (s.buf b) (ckOff (s.buf b)) ckLen)))

/-- `GET_CKSUM` (R257). -/
def execGetCksum (b : BufSel) (s : State) : StepOutcome := answerQuery s (queryGetCksum b s)

/-- `SET_CKSUM` (R258): `BadValue` is tested first. -/
def execSetCksum (b : BufSel) (len : Word) (wbytes : List Byte) (s : State) : StepOutcome :=
  commitBuffer s b
    (if len.toNat ≠ ckLen then .error (.badValue len.toNat)
     else withWindow (s.cap b) (s.buf b) (.ok (memWrite (s.buf b) (ckOff (s.buf b)) wbytes, {})))

/-- `SET_FOOTER` (R260). -/
def execSetFooter (b : BufSel) (s : State) : StepOutcome :=
  commitBuffer s b (withWindow (s.cap b) (s.buf b) (.ok (writeFooter (s.buf b), {})))

/-- What `GET_FOOTER` returns (R262). -/
def queryGetFooter (b : BufSel) (s : State) : Except CmdFault Results :=
  withWindow (s.cap b) (s.buf b) (.ok (scalarResult (leValue (memRead (s.buf b) (ftOff (s.buf b)) ftLen))))

/-- `GET_FOOTER` (R262). -/
def execGetFooter (b : BufSel) (s : State) : StepOutcome := answerQuery s (queryGetFooter b s)

/-- What `CHECK_FOOTER` returns (R264). -/
def queryCheckFooter (b : BufSel) (s : State) : Except CmdFault Results :=
  withWindow (s.cap b) (s.buf b) (.ok (scalarResult (if footerOk (s.buf b) then 1 else 0)))

/-- `CHECK_FOOTER` (R264). -/
def execCheckFooter (b : BufSel) (s : State) : StepOutcome := answerQuery s (queryCheckFooter b s)

/-- What `MSG_SIZE` returns (R270): no window check, no wrap. -/
def queryMsgSize (b : BufSel) (s : State) : Except CmdFault Results := .ok (scalarResult (msgLen (s.buf b)))

/-- `MSG_SIZE` (R270). -/
def execMsgSize (b : BufSel) (s : State) : StepOutcome := answerQuery s (queryMsgSize b s)

end Sys2Proof.Machine
end

