-- ==== Sys2Proof/Machine/Framing.lean ====
section
/-! DEFINITION. The framing commands `FINALIZE`, `HDR_PARSE`, `RSP_CLASSIFY` (spec/47_transaction.md, section 2). -/

namespace Sys2Proof.Machine

/-- The three writes of `FINALIZE` in their order: message type, checksum, footer (R320). -/
def finalizeBuffer (msgType : Word) (m : Memory) : Memory :=
  writeFooter (writeChecksum (setField m fMsgtype msgType.toNat))

/-- `FINALIZE` (R320): the window is tested before any write. -/
def execFinalize (b : BufSel) (msgType : Word) (s : State) : StepOutcome :=
  commitBuffer s b (withWindow (s.cap b) (s.buf b) (.ok (finalizeBuffer msgType (s.buf b), {})))

/-- Whether bytes 0 and 1 are the start sync. -/
def syncOk (m : Memory) : Bool := memRead m 0 2 == syncBytes

/-- Whether the version field is `0x1100`. -/
def verOk (m : Memory) : Bool := getField m fVer == protocolVersion

/-- The `rdata` of `HDR_PARSE` (R323): from the top, 28 zero bits, `fits`, `lenOk`, `verOk`, `syncOk`, `BR`. -/
def hdrParseData (cap : Nat) (m : Memory) : Dword :=
  0#28 ++ BitVec.ofBool (decide (msgLen m ≤ cap)) ++ BitVec.ofBool (decide (minBr ≤ brOf m))
    ++ BitVec.ofBool (verOk m) ++ BitVec.ofBool (syncOk m) ++ BitVec.ofNat 32 (brOf m)

/-- What `HDR_PARSE` returns (R323). -/
def queryHdrParse (b : BufSel) (s : State) : Except CmdFault Results :=
  .ok { rdata := hdrParseData (s.cap b) (s.buf b), cnt := BitVec.ofNat 32 (brOf (s.buf b)) }

/-- `HDR_PARSE` (R323). -/
def execHdrParse (b : BufSel) (s : State) : StepOutcome := answerQuery s (queryHdrParse b s)

/-- Whether a response's NACK and exception flags are both clear (R326, R338). -/
def msgOk (p : FlagPositions) (m : Memory) : Bool := !nackSet p m && !exceptionSet p m

/-- The `rdata` of `RSP_CLASSIFY` (R326): from the top, 32 zero bits, the error number, 13 zero bits,
`msgOk`, exception, NACK. -/
def rspClassifyData (p : FlagPositions) (m : Memory) : Dword :=
  0#32 ++ BitVec.ofNat 16 (getField m fErrno) ++ 0#13 ++ BitVec.ofBool (msgOk p m)
    ++ BitVec.ofBool (exceptionSet p m) ++ BitVec.ofBool (nackSet p m)

/-- What `RSP_CLASSIFY` returns (R326). -/
def queryRspClassify (b : BufSel) (s : State) : Except CmdFault Results :=
  .ok { rdata := rspClassifyData s.params.flags (s.buf b) }

/-- `RSP_CLASSIFY` (R326). -/
def execRspClassify (b : BufSel) (s : State) : StepOutcome := answerQuery s (queryRspClassify b s)

end Sys2Proof.Machine
end

