-- ==== Sys2Proof/Machine/Header.lean ====
section
/-! DEFINITION. The header field commands (spec/42_header_fields.md): a getter and a setter for each of ten fields. -/

namespace Sys2Proof.Machine

/-- The common getter (R141): the field's bytes, legal or not, zero-extended. -/
def getFieldResult (f : Field) (m : Memory) : Except CmdFault Results := .ok (scalarResult (getField m f))

/-- The common setter (R142): the field's bytes and nothing else, the value unchecked. -/
def setFieldResult (f : Field) (v : Nat) (m : Memory) : Except CmdFault (Memory × Results) :=
  .ok (setField m f v, {})

/-! ### Getters -/

/-- What `GET_SYNC` returns (R145). -/
def queryGetSync (b : BufSel) (s : State) : Except CmdFault Results := getFieldResult fSync (s.buf b)

/-- `GET_SYNC` (R145). -/
def execGetSync (b : BufSel) (s : State) : StepOutcome := answerQuery s (queryGetSync b s)

/-- What `GET_VER` returns (R146). -/
def queryGetVer (b : BufSel) (s : State) : Except CmdFault Results := getFieldResult fVer (s.buf b)

/-- `GET_VER` (R146). -/
def execGetVer (b : BufSel) (s : State) : StepOutcome := answerQuery s (queryGetVer b s)

/-- What `GET_FLAGS` returns (R147). -/
def queryGetFlags (b : BufSel) (s : State) : Except CmdFault Results := getFieldResult fFlags (s.buf b)

/-- `GET_FLAGS` (R147). -/
def execGetFlags (b : BufSel) (s : State) : StepOutcome := answerQuery s (queryGetFlags b s)

/-- What `GET_ERRNO` returns (R148). -/
def queryGetErrno (b : BufSel) (s : State) : Except CmdFault Results := getFieldResult fErrno (s.buf b)

/-- `GET_ERRNO` (R148). -/
def execGetErrno (b : BufSel) (s : State) : StepOutcome := answerQuery s (queryGetErrno b s)

/-- What `GET_MSGTYPE` returns (R149). -/
def queryGetMsgtype (b : BufSel) (s : State) : Except CmdFault Results := getFieldResult fMsgtype (s.buf b)

/-- `GET_MSGTYPE` (R149). -/
def execGetMsgtype (b : BufSel) (s : State) : StepOutcome := answerQuery s (queryGetMsgtype b s)

/-- What `GET_REGARDING` returns (R150). -/
def queryGetRegarding (b : BufSel) (s : State) : Except CmdFault Results := getFieldResult fRegarding (s.buf b)

/-- `GET_REGARDING` (R150). -/
def execGetRegarding (b : BufSel) (s : State) : StepOutcome := answerQuery s (queryGetRegarding b s)

/-- What `GET_RSVD` returns (R151). -/
def queryGetRsvd (b : BufSel) (s : State) : Except CmdFault Results := getFieldResult fRsvd (s.buf b)

/-- `GET_RSVD` (R151). -/
def execGetRsvd (b : BufSel) (s : State) : StepOutcome := answerQuery s (queryGetRsvd b s)

/-- What `GET_CKTYPE` returns (R152). -/
def queryGetCktype (b : BufSel) (s : State) : Except CmdFault Results := getFieldResult fCktype (s.buf b)

/-- `GET_CKTYPE` (R152). -/
def execGetCktype (b : BufSel) (s : State) : StepOutcome := answerQuery s (queryGetCktype b s)

/-- What `GET_IMMLEN` returns (R153). -/
def queryGetImmlen (b : BufSel) (s : State) : Except CmdFault Results := getFieldResult fImmlen (s.buf b)

/-- `GET_IMMLEN` (R153). -/
def execGetImmlen (b : BufSel) (s : State) : StepOutcome := answerQuery s (queryGetImmlen b s)

/-- What `GET_BYTESREM` returns (R154). -/
def queryGetBytesrem (b : BufSel) (s : State) : Except CmdFault Results := getFieldResult fBytesrem (s.buf b)

/-- `GET_BYTESREM` (R154). -/
def execGetBytesrem (b : BufSel) (s : State) : StepOutcome := answerQuery s (queryGetBytesrem b s)

/-! ### Setters -/

/-- `SET_SYNC` (R160). -/
def execSetSync (b : BufSel) (v : Half) (s : State) : StepOutcome :=
  commitBuffer s b (setFieldResult fSync v.toNat (s.buf b))

/-- `SET_VER` (R161). -/
def execSetVer (b : BufSel) (v : Half) (s : State) : StepOutcome :=
  commitBuffer s b (setFieldResult fVer v.toNat (s.buf b))

/-- `SET_FLAGS` (R162). -/
def execSetFlags (b : BufSel) (v : Half) (s : State) : StepOutcome :=
  commitBuffer s b (setFieldResult fFlags v.toNat (s.buf b))

/-- `SET_ERRNO` (R163). -/
def execSetErrno (b : BufSel) (v : Half) (s : State) : StepOutcome :=
  commitBuffer s b (setFieldResult fErrno v.toNat (s.buf b))

/-- `SET_MSGTYPE` (R164). -/
def execSetMsgtype (b : BufSel) (v : Word) (s : State) : StepOutcome :=
  commitBuffer s b (setFieldResult fMsgtype v.toNat (s.buf b))

/-- `SET_REGARDING` (R165). -/
def execSetRegarding (b : BufSel) (v : Word) (s : State) : StepOutcome :=
  commitBuffer s b (setFieldResult fRegarding v.toNat (s.buf b))

/-- `SET_RSVD` (R166). -/
def execSetRsvd (b : BufSel) (v : Word48) (s : State) : StepOutcome :=
  commitBuffer s b (setFieldResult fRsvd v.toNat (s.buf b))

/-- `SET_CKTYPE` (R167). -/
def execSetCktype (b : BufSel) (v : Byte) (s : State) : StepOutcome :=
  commitBuffer s b (setFieldResult fCktype v.toNat (s.buf b))

/-- `SET_IMMLEN` (R168): a value above 16 faults `BadValue`. -/
def execSetImmlen (b : BufSel) (v : Byte) (s : State) : StepOutcome :=
  commitBuffer s b
    (if immCap < v.toNat then .error (.badValue v.toNat) else setFieldResult fImmlen v.toNat (s.buf b))

/-- `SET_BYTESREM` (R169): a value below 20 is raised to 20. -/
def execSetBytesrem (b : BufSel) (v : Word) (s : State) : StepOutcome :=
  commitBuffer s b (setFieldResult fBytesrem (max v.toNat minBr) (s.buf b))

end Sys2Proof.Machine
end

