-- ==== Sys2Proof/Machine/Immediate.lean ====
section
/-! DEFINITION. The immediate-data commands (spec/43_immediate.md), over `immWrite` (R181) and `immRead` (R182). -/

namespace Sys2Proof.Machine

/-! ### Setters -/

/-- `SET_IMM_BYTE` (R185). -/
def execSetImmByte (b : BufSel) (off : Word) (v : Byte) (s : State) : StepOutcome :=
  commitBuffer s b (countResult (immWrite (s.buf b) off.toNat (leBytes 1 v.toNat)))

/-- `SET_IMM_SHORT` (R186). -/
def execSetImmShort (b : BufSel) (off : Word) (v : Half) (s : State) : StepOutcome :=
  commitBuffer s b (countResult (immWrite (s.buf b) off.toNat (leBytes 2 v.toNat)))

/-- `SET_IMM_INT` (R187). -/
def execSetImmInt (b : BufSel) (off : Word) (v : Word) (s : State) : StepOutcome :=
  commitBuffer s b (countResult (immWrite (s.buf b) off.toNat (leBytes 4 v.toNat)))

/-- `SET_IMM_LONG` (R188). -/
def execSetImmLong (b : BufSel) (off : Word) (v : Dword) (s : State) : StepOutcome :=
  commitBuffer s b (countResult (immWrite (s.buf b) off.toNat (leBytes 8 v.toNat)))

/-- `SET_IMM_FLOAT` (R189); the binary32 pattern is moved unchanged. -/
def execSetImmFloat (b : BufSel) (off : Word) (v : Word) (s : State) : StepOutcome :=
  commitBuffer s b (countResult (immWrite (s.buf b) off.toNat (leBytes 4 v.toNat)))

/-- `SET_IMM_DOUBLE` (R190); the binary64 pattern is moved unchanged. -/
def execSetImmDouble (b : BufSel) (off : Word) (v : Dword) (s : State) : StepOutcome :=
  commitBuffer s b (countResult (immWrite (s.buf b) off.toNat (leBytes 8 v.toNat)))

/-- `SET_IMM_BYTES` (R191). Of a well-formed command `wbytes` is `len` bytes. -/
def execSetImmBytes (b : BufSel) (off _len : Word) (wbytes : List Byte) (s : State) : StepOutcome :=
  commitBuffer s b (countResult (immWrite (s.buf b) off.toNat wbytes))

/-! ### Getters -/

/-- What `GET_IMM_BYTE` returns (R195). -/
def queryGetImmByte (b : BufSel) (off : Word) (s : State) : Except CmdFault Results :=
  scalarRead (immRead (s.buf b) off.toNat 1)

/-- `GET_IMM_BYTE` (R195). -/
def execGetImmByte (b : BufSel) (off : Word) (s : State) : StepOutcome :=
  answerQuery s (queryGetImmByte b off s)

/-- What `GET_IMM_SHORT` returns (R196). -/
def queryGetImmShort (b : BufSel) (off : Word) (s : State) : Except CmdFault Results :=
  scalarRead (immRead (s.buf b) off.toNat 2)

/-- `GET_IMM_SHORT` (R196). -/
def execGetImmShort (b : BufSel) (off : Word) (s : State) : StepOutcome :=
  answerQuery s (queryGetImmShort b off s)

/-- What `GET_IMM_INT` returns (R197). -/
def queryGetImmInt (b : BufSel) (off : Word) (s : State) : Except CmdFault Results :=
  scalarRead (immRead (s.buf b) off.toNat 4)

/-- `GET_IMM_INT` (R197). -/
def execGetImmInt (b : BufSel) (off : Word) (s : State) : StepOutcome :=
  answerQuery s (queryGetImmInt b off s)

/-- What `GET_IMM_LONG` returns (R198). -/
def queryGetImmLong (b : BufSel) (off : Word) (s : State) : Except CmdFault Results :=
  scalarRead (immRead (s.buf b) off.toNat 8)

/-- `GET_IMM_LONG` (R198). -/
def execGetImmLong (b : BufSel) (off : Word) (s : State) : StepOutcome :=
  answerQuery s (queryGetImmLong b off s)

/-- What `GET_IMM_FLOAT` returns (R199). -/
def queryGetImmFloat (b : BufSel) (off : Word) (s : State) : Except CmdFault Results :=
  scalarRead (immRead (s.buf b) off.toNat 4)

/-- `GET_IMM_FLOAT` (R199). -/
def execGetImmFloat (b : BufSel) (off : Word) (s : State) : StepOutcome :=
  answerQuery s (queryGetImmFloat b off s)

/-- What `GET_IMM_DOUBLE` returns (R200). -/
def queryGetImmDouble (b : BufSel) (off : Word) (s : State) : Except CmdFault Results :=
  scalarRead (immRead (s.buf b) off.toNat 8)

/-- `GET_IMM_DOUBLE` (R200). -/
def execGetImmDouble (b : BufSel) (off : Word) (s : State) : StepOutcome :=
  answerQuery s (queryGetImmDouble b off s)

/-- What `GET_IMM_BYTES` returns (R201). -/
def queryGetImmBytes (b : BufSel) (off len : Word) (s : State) : Except CmdFault Results :=
  bytesRead (immRead (s.buf b) off.toNat len.toNat)

/-- `GET_IMM_BYTES` (R201). -/
def execGetImmBytes (b : BufSel) (off len : Word) (s : State) : StepOutcome :=
  answerQuery s (queryGetImmBytes b off len s)

end Sys2Proof.Machine
end

