-- ==== Sys2Proof/Machine/Marshal.lean ====
section
/-! DEFINITION. The marshalling commands (spec/46_marshalling.md). -/

namespace Sys2Proof.Machine

/-- A region write that reports which path was taken: `cnt`, and `rdata` 0 (immediate) or 1 (payload). -/
def pathResult (path : Nat) : Except CmdFault (Memory × Nat) → Except CmdFault (Memory × Results)
  | .ok (m, w) => .ok (m, { rdata := BitVec.ofNat 64 path, cnt := BitVec.ofNat 32 w })
  | .error f => .error f

/-- `PUT_AUTO` (R285): at most `T` bytes go to the immediate data, more to the payload. Of a well-formed
command `wbytes` is `len` bytes. -/
def execPutAuto (b : BufSel) (_len : Word) (wbytes : List Byte) (t : Byte) (s : State) : StepOutcome :=
  commitBuffer s b
    (if immCap < t.toNat then .error (.badValue t.toNat)
     else if wbytes.length ≤ t.toNat then pathResult 0 (immWrite (s.buf b) 0 wbytes)
     else pathResult 1 (payWrite (s.cap b) (s.buf b) 0 wbytes))

/-- The bytes `GET_AUTO` selects and its path (R288): the immediate data in use if there is any, else the
whole payload. -/
def autoRead (cap : Nat) (m : Memory) : Except CmdFault (List Byte × Nat) :=
  if 0 < getField m fImmlen then
    if immCap < getField m fImmlen then .error (.badValue (getField m fImmlen))
    else .ok (memRead m immBase (getField m fImmlen), 0)
  else if brOf m < minBr then .error (.badLength (brOf m))
  else
    match payRead cap m 0 (brOf m - minBr) with
    | .ok s => .ok (s, 1)
    | .error f => .error f

/-- What `GET_AUTO` returns (R288). -/
def queryGetAuto (b : BufSel) (s : State) : Except CmdFault Results :=
  match autoRead (s.cap b) (s.buf b) with
  | .ok (bytes, path) => .ok { bytesResult bytes with rdata := BitVec.ofNat 64 path }
  | .error f => .error f

/-- `GET_AUTO` (R288). -/
def execGetAuto (b : BufSel) (s : State) : StepOutcome := answerQuery s (queryGetAuto b s)

/-- The bytes before the first one below the threshold, compared as unsigned numbers (R290). -/
def trimString (minPrint : Byte) (s : List Byte) : List Byte :=
  s.takeWhile (fun v => decide (minPrint.toNat ≤ v.toNat))

/-- What `GET_STRING` returns (R290): the scan runs over the bytes `GET_AUTO` selects. -/
def queryGetString (b : BufSel) (minPrint : Byte) (s : State) : Except CmdFault Results :=
  match autoRead (s.cap b) (s.buf b) with
  | .ok (bytes, path) => .ok { bytesResult (trimString minPrint bytes) with rdata := BitVec.ofNat 64 path }
  | .error f => .error f

/-- `GET_STRING` (R290). -/
def execGetString (b : BufSel) (minPrint : Byte) (s : State) : StepOutcome :=
  answerQuery s (queryGetString b minPrint s)

end Sys2Proof.Machine
end

