-- ==== Sys2Proof/Machine/Payload.lean ====
section
/-! DEFINITION. The payload commands (spec/44_payload.md), over `payWrite` (R213) and `payRead` (R214). -/

namespace Sys2Proof.Machine

/-! ### Setters -/

/-- `SET_PAY_BYTE` (R215). -/
def execSetPayByte (b : BufSel) (off : Word) (v : Byte) (s : State) : StepOutcome :=
  commitBuffer s b (countResult (payWrite (s.cap b) (s.buf b) off.toNat (leBytes 1 v.toNat)))

/-- `SET_PAY_SHORT` (R216). -/
def execSetPayShort (b : BufSel) (off : Word) (v : Half) (s : State) : StepOutcome :=
  commitBuffer s b (countResult (payWrite (s.cap b) (s.buf b) off.toNat (leBytes 2 v.toNat)))

/-- `SET_PAY_INT` (R217). -/
def execSetPayInt (b : BufSel) (off : Word) (v : Word) (s : State) : StepOutcome :=
  commitBuffer s b (countResult (payWrite (s.cap b) (s.buf b) off.toNat (leBytes 4 v.toNat)))

/-- `SET_PAY_LONG` (R218). -/
def execSetPayLong (b : BufSel) (off : Word) (v : Dword) (s : State) : StepOutcome :=
  commitBuffer s b (countResult (payWrite (s.cap b) (s.buf b) off.toNat (leBytes 8 v.toNat)))

/-- `SET_PAY_FLOAT` (R219); the binary32 pattern is moved unchanged. -/
def execSetPayFloat (b : BufSel) (off : Word) (v : Word) (s : State) : StepOutcome :=
  commitBuffer s b (countResult (payWrite (s.cap b) (s.buf b) off.toNat (leBytes 4 v.toNat)))

/-- `SET_PAY_DOUBLE` (R220); the binary64 pattern is moved unchanged. -/
def execSetPayDouble (b : BufSel) (off : Word) (v : Dword) (s : State) : StepOutcome :=
  commitBuffer s b (countResult (payWrite (s.cap b) (s.buf b) off.toNat (leBytes 8 v.toNat)))

/-- `SET_PAY_BYTES` (R221). Of a well-formed command `wbytes` is `len` bytes. -/
def execSetPayBytes (b : BufSel) (off _len : Word) (wbytes : List Byte) (s : State) : StepOutcome :=
  commitBuffer s b (countResult (payWrite (s.cap b) (s.buf b) off.toNat wbytes))

/-! ### Getters -/

/-- What `GET_PAY_BYTE` returns (R225). -/
def queryGetPayByte (b : BufSel) (off : Word) (s : State) : Except CmdFault Results :=
  scalarRead (payRead (s.cap b) (s.buf b) off.toNat 1)

/-- `GET_PAY_BYTE` (R225). -/
def execGetPayByte (b : BufSel) (off : Word) (s : State) : StepOutcome :=
  answerQuery s (queryGetPayByte b off s)

/-- What `GET_PAY_SHORT` returns (R226). -/
def queryGetPayShort (b : BufSel) (off : Word) (s : State) : Except CmdFault Results :=
  scalarRead (payRead (s.cap b) (s.buf b) off.toNat 2)

/-- `GET_PAY_SHORT` (R226). -/
def execGetPayShort (b : BufSel) (off : Word) (s : State) : StepOutcome :=
  answerQuery s (queryGetPayShort b off s)

/-- What `GET_PAY_INT` returns (R227). -/
def queryGetPayInt (b : BufSel) (off : Word) (s : State) : Except CmdFault Results :=
  scalarRead (payRead (s.cap b) (s.buf b) off.toNat 4)

/-- `GET_PAY_INT` (R227). -/
def execGetPayInt (b : BufSel) (off : Word) (s : State) : StepOutcome :=
  answerQuery s (queryGetPayInt b off s)

/-- What `GET_PAY_LONG` returns (R228). -/
def queryGetPayLong (b : BufSel) (off : Word) (s : State) : Except CmdFault Results :=
  scalarRead (payRead (s.cap b) (s.buf b) off.toNat 8)

/-- `GET_PAY_LONG` (R228). -/
def execGetPayLong (b : BufSel) (off : Word) (s : State) : StepOutcome :=
  answerQuery s (queryGetPayLong b off s)

/-- What `GET_PAY_FLOAT` returns (R229). -/
def queryGetPayFloat (b : BufSel) (off : Word) (s : State) : Except CmdFault Results :=
  scalarRead (payRead (s.cap b) (s.buf b) off.toNat 4)

/-- `GET_PAY_FLOAT` (R229). -/
def execGetPayFloat (b : BufSel) (off : Word) (s : State) : StepOutcome :=
  answerQuery s (queryGetPayFloat b off s)

/-- What `GET_PAY_DOUBLE` returns (R230). -/
def queryGetPayDouble (b : BufSel) (off : Word) (s : State) : Except CmdFault Results :=
  scalarRead (payRead (s.cap b) (s.buf b) off.toNat 8)

/-- `GET_PAY_DOUBLE` (R230). -/
def execGetPayDouble (b : BufSel) (off : Word) (s : State) : StepOutcome :=
  answerQuery s (queryGetPayDouble b off s)

/-- What `GET_PAY_BYTES` returns (R231). -/
def queryGetPayBytes (b : BufSel) (off len : Word) (s : State) : Except CmdFault Results :=
  bytesRead (payRead (s.cap b) (s.buf b) off.toNat len.toNat)

/-- `GET_PAY_BYTES` (R231). -/
def execGetPayBytes (b : BufSel) (off len : Word) (s : State) : StepOutcome :=
  answerQuery s (queryGetPayBytes b off len s)

end Sys2Proof.Machine
end

