-- ==== Sys2Proof/Machine/Transaction.lean ====
section
/-! DEFINITION. The transaction command `XACT` (spec/47_transaction.md, section 3): admission, then one stage for each step of rules R332 to R339. -/

namespace Sys2Proof.Machine

/-! ### The decode command -/

/-- `Admissible` (R331): no decode, and the opcodes of the commands that change no state. -/
def admissibleOps : List Nat :=
  [0x00]
    ++ [0x10, 0x11, 0x12, 0x13, 0x14, 0x15, 0x16, 0x17, 0x18, 0x19]
    ++ [0x38, 0x39, 0x3A, 0x3B, 0x3C, 0x3D, 0x3E]
    ++ [0x48, 0x49, 0x4A, 0x4B, 0x4C, 0x4D, 0x4E]
    ++ [0x51, 0x52, 0x55, 0x56, 0x57, 0x61, 0x62, 0x71, 0x72]

/-- Whether `XACT` admits a decode opcode. -/
def admissible (decOp : Byte) : Bool := admissibleOps.contains decOp.toNat

/-- The read command an instruction is, run without answering the host; `none` for an instruction that
writes. -/
def queryInstr (s : State) : Instr → Option (Except CmdFault Results)
  | .getSync b => some (queryGetSync b s)
  | .getVer b => some (queryGetVer b s)
  | .getFlags b => some (queryGetFlags b s)
  | .getErrno b => some (queryGetErrno b s)
  | .getMsgtype b => some (queryGetMsgtype b s)
  | .getRegarding b => some (queryGetRegarding b s)
  | .getRsvd b => some (queryGetRsvd b s)
  | .getCktype b => some (queryGetCktype b s)
  | .getImmlen b => some (queryGetImmlen b s)
  | .getBytesrem b => some (queryGetBytesrem b s)
  | .getImmByte b off => some (queryGetImmByte b off s)
  | .getImmShort b off => some (queryGetImmShort b off s)
  | .getImmInt b off => some (queryGetImmInt b off s)
  | .getImmLong b off => some (queryGetImmLong b off s)
  | .getImmFloat b off => some (queryGetImmFloat b off s)
  | .getImmDouble b off => some (queryGetImmDouble b off s)
  | .getImmBytes b off len => some (queryGetImmBytes b off len s)
  | .getPayByte b off => some (queryGetPayByte b off s)
  | .getPayShort b off => some (queryGetPayShort b off s)
  | .getPayInt b off => some (queryGetPayInt b off s)
  | .getPayLong b off => some (queryGetPayLong b off s)
  | .getPayFloat b off => some (queryGetPayFloat b off s)
  | .getPayDouble b off => some (queryGetPayDouble b off s)
  | .getPayBytes b off len => some (queryGetPayBytes b off len s)
  | .cksumMatch b => some (queryCksumMatch b s)
  | .getCksum b => some (queryGetCksum b s)
  | .getFooter b => some (queryGetFooter b s)
  | .checkFooter b => some (queryCheckFooter b s)
  | .msgSize b => some (queryMsgSize b s)
  | .getAuto b => some (queryGetAuto b s)
  | .getString b minPrint => some (queryGetString b minPrint s)
  | .hdrParse b => some (queryHdrParse b s)
  | .rspClassify b => some (queryRspClassify b s)
  | .init _ | .clear _
  | .setSync _ _ | .setVer _ _ | .setFlags _ _ | .setErrno _ _ | .setMsgtype _ _
  | .setRegarding _ _ | .setRsvd _ _ | .setCktype _ _ | .setImmlen _ _ | .setBytesrem _ _
  | .setImmByte _ _ _ | .setImmShort _ _ _ | .setImmInt _ _ _ | .setImmLong _ _ _
  | .setImmFloat _ _ _ | .setImmDouble _ _ _ | .setImmBytes _ _ _ _
  | .setPayByte _ _ _ | .setPayShort _ _ _ | .setPayInt _ _ _ | .setPayLong _ _ _
  | .setPayFloat _ _ _ | .setPayDouble _ _ _ | .setPayBytes _ _ _ _
  | .cksumCompute _ | .setCksum _ _ _ | .setFooter _ | .putAuto _ _ _ _ | .finalize _ _
  | .xact _ _ _ _ _ _ => none

/-- The decode command run on `RSP` (R331, R339): the instruction its record decodes to. The last two
cases cannot arise for an admitted opcode other than `0x00`. -/
def runDecode (decOp decArg : Byte) (off len : Word) (s : State) : Except CmdFault Results :=
  match decode (decodeStepCommand decOp decArg off len) with
  | .ok i =>
    match queryInstr s i with
    | some r => r
    | none => .error .illegalOp
  | .error _ => .error .illegalOp

/-! ### The stages -/

/-- What a stage gives: the next stage goes on, the transaction has ended with a result, or the transport
never answered. -/
inductive XStage
  | goOn (s : State)
  | ended (s : State) (x : XResult) (r : Results)
  | silent
deriving DecidableEq, Repr

/-- The next stage, if there is one. -/
def XStage.andThen (p : XStage) (k : State → XStage) : XStage :=
  match p with
  | .goOn s => k s
  | .ended s x r => .ended s x r
  | .silent => .silent

/-- `xstate <- Failed ; return xres(...)` (R333 to R339). -/
def xactFail (s : State) (x : XResult) : XStage := .ended { s with xstate := .failed } x {}

/-- The result of an IO failure at a step (R340). -/
def ioFailure (io : TransportStatus) (step : BitVec 4) : XResult :=
  { kind := .ioFailure, io := io, step := step, xs := .failed }

/-- Step 1 (R332): the lock is the command port. -/
def xactBegin (s : State) : XStage := .goOn { s with xstate := .idle }

/-- Step 2 (R332): finalize the request. -/
def xactFinalize (msgType : Word) (s : State) : XStage :=
  .goOn { s with req := finalizeBuffer msgType s.req, xstate := .requestFinalized }

/-- Step 3 (R333): send the whole message. -/
def xactSend (s : State) : XStage :=
  match callTransport (.sendBytes (memRead s.req 0 (msgLen s.req))) s with
  | none => .silent
  | some (st, _, t) =>
    if st = .success then .goOn { t with xstate := .sent }
    else xactFail t (ioFailure st 3)

/-- Step 4 (R334): whether a response is awaited. -/
def xactAwait (always : Bool) (s : State) : XStage :=
  if always || ackRequested s.params.flags s.req then .goOn s
  else .ended { s with xstate := .success } { kind := .success, step := 4, xs := .success } {}

/-- The entry of step 5 (R335): `RSP` is cleared if `XACT_CLEARS_RSP`, then the header is awaited. -/
def xactAwaitHeader (s : State) : XStage :=
  .goOn { s with
    rsp := if s.params.xactClearsRsp then zeroed s.rsp else s.rsp, xstate := .awaitingHeader }

/-- Step 5 (R335): receive the 44 bytes of the header. -/
def xactHeader (s : State) : XStage :=
  match receiveBytes 0 hdrLen s with
  | none => .silent
  | some (st, n, t) =>
    if st ≠ .success then xactFail t (ioFailure st 5)
    else if n < hdrLen then xactFail t (ioFailure .insufficientData 5)
    else .goOn { t with xstate := .awaitingRemainder }

/-- Step 6 (R336): receive the `BR(RSP)` bytes after the header. -/
def xactRemainder (s : State) : XStage :=
  if brOf s.rsp < minBr then xactFail s (ioFailure .insufficientData 6)
  else if s.params.capRsp.bytes < msgLen s.rsp then xactFail s (ioFailure .outOfRange 6)
  else
    match receiveBytes hdrLen (brOf s.rsp) s with
    | none => .silent
    | some (st, n, t) =>
      if st ≠ .success then xactFail t (ioFailure st 6)
      else if n < minBr ∨ n < brOf s.rsp then xactFail t (ioFailure .insufficientData 6)
      else .goOn t

/-- The validate step (R337): the footer, and the sync and version if `XACT_STRICT_HEADER`. -/
def xactValidate (s : State) : XStage :=
  if !footerOk s.rsp then
    xactFail s { kind := .framingError, step := 6, xs := .failed, rspValid := true }
  else if s.params.xactStrictHeader && !(syncOk s.rsp && verOk s.rsp) then
    xactFail s { kind := .framingError, step := 6, xs := .failed, rspValid := true }
  else .goOn s

/-- Step 7 (R338): NACK or exception. -/
def xactClassify (s : State) : XStage :=
  if !msgOk s.params.flags s.rsp then
    xactFail s { kind := .protocolFailure, step := 7, xs := .failed, rspValid := true,
                 errno := BitVec.ofNat 16 (getField s.rsp fErrno) }
  else .goOn s

/-- The end of step 8 (R339): from `Decoded` to `Success`, with the decode command's results. -/
def xactComplete (r : Results) (s : State) : XStage :=
  .ended { s with xstate := .success } { kind := .success, step := 8, xs := .success, rspValid := true } r

/-- Step 8 (R339): the decode command, if there is one. `Decoded` is entered and left inside the command,
so the host never sees it at rest. That a decode fault leaves the other results 0 is DEDUCED: log entry 14. -/
def xactDecode (decOp decArg : Byte) (off len : Word) (s : State) : XStage :=
  if decOp = 0 then xactComplete {} { s with xstate := .decoded }
  else
    match runDecode decOp decArg off len s with
    | .error f =>
      xactFail s { kind := .decodeFault, step := 8, xs := .failed, rspValid := true, fault := f.code }
    | .ok r => xactComplete r { s with xstate := .decoded }

/-- The transaction after admission: the stages in order (R330), all in one step of the machine (DESIGN
CHOICE, safe: log entry 11). -/
def runXact (msgType : Word) (always : Bool) (decOp decArg : Byte) (off len : Word) (s : State) : XStage :=
  (xactBegin s)
    |>.andThen (xactFinalize msgType)
    |>.andThen xactSend
    |>.andThen (xactAwait always)
    |>.andThen xactAwaitHeader
    |>.andThen xactHeader
    |>.andThen xactRemainder
    |>.andThen xactValidate
    |>.andThen xactClassify
    |>.andThen (xactDecode decOp decArg off len)

/-- The response of a transaction that ended: `status = OK`, `xres`, and the decode command's results
(R330, R340). -/
def xactResponse (x : XResult) (r : Results) : Response := { okResponse r with xres := x.pack }

/-- The end of `XACT`. `goOn` does not arise: the last stage ends or is silent. -/
def finishXact : XStage → StepOutcome
  | .goOn s => .next s
  | .ended s x r => .next (s.respond (xactResponse x r))
  | .silent => .fault .transportNeverAnswers

/-- Admission (R331): `IllegalOp` for an inadmissible decode opcode, then `Window(REQ)`. -/
def admitXact (decOp : Byte) (s : State) : Except CmdFault Unit :=
  if admissible decOp then window s.params.capReq.bytes s.req else .error .illegalOp

/-- `XACT` (R330 to R340). -/
def execXact (msgType : Word) (always : Bool) (decOp decArg : Byte) (off len : Word) (s : State) :
    StepOutcome :=
  match admitXact decOp s with
  | .error f => takeFault f s
  | .ok () => finishXact (runXact msgType always decOp decArg off len s)

end Sys2Proof.Machine
end

