-- ==== Sys2Proof/Machine/Dispatch.lean ====
section
/-! DEFINITION. The meaning of every instruction: one arm for each row of spec/opcode_table.json. -/

namespace Sys2Proof.Machine

def exec (i : Instr) (s : State) : Host.Outcome State Fault Refusal :=
  match i with
  | .init b => Sys2Proof.Machine.execInit b s
  | .clear b => Sys2Proof.Machine.execClear b s
  | .getSync b => Sys2Proof.Machine.execGetSync b s
  | .getVer b => Sys2Proof.Machine.execGetVer b s
  | .getFlags b => Sys2Proof.Machine.execGetFlags b s
  | .getErrno b => Sys2Proof.Machine.execGetErrno b s
  | .getMsgtype b => Sys2Proof.Machine.execGetMsgtype b s
  | .getRegarding b => Sys2Proof.Machine.execGetRegarding b s
  | .getRsvd b => Sys2Proof.Machine.execGetRsvd b s
  | .getCktype b => Sys2Proof.Machine.execGetCktype b s
  | .getImmlen b => Sys2Proof.Machine.execGetImmlen b s
  | .getBytesrem b => Sys2Proof.Machine.execGetBytesrem b s
  | .setSync b v => Sys2Proof.Machine.execSetSync b v s
  | .setVer b v => Sys2Proof.Machine.execSetVer b v s
  | .setFlags b v => Sys2Proof.Machine.execSetFlags b v s
  | .setErrno b v => Sys2Proof.Machine.execSetErrno b v s
  | .setMsgtype b v => Sys2Proof.Machine.execSetMsgtype b v s
  | .setRegarding b v => Sys2Proof.Machine.execSetRegarding b v s
  | .setRsvd b v => Sys2Proof.Machine.execSetRsvd b v s
  | .setCktype b v => Sys2Proof.Machine.execSetCktype b v s
  | .setImmlen b v => Sys2Proof.Machine.execSetImmlen b v s
  | .setBytesrem b v => Sys2Proof.Machine.execSetBytesrem b v s
  | .setImmByte b off v => Sys2Proof.Machine.execSetImmByte b off v s
  | .setImmShort b off v => Sys2Proof.Machine.execSetImmShort b off v s
  | .setImmInt b off v => Sys2Proof.Machine.execSetImmInt b off v s
  | .setImmLong b off v => Sys2Proof.Machine.execSetImmLong b off v s
  | .setImmFloat b off v => Sys2Proof.Machine.execSetImmFloat b off v s
  | .setImmDouble b off v => Sys2Proof.Machine.execSetImmDouble b off v s
  | .setImmBytes b off len wbytes => Sys2Proof.Machine.execSetImmBytes b off len wbytes s
  | .getImmByte b off => Sys2Proof.Machine.execGetImmByte b off s
  | .getImmShort b off => Sys2Proof.Machine.execGetImmShort b off s
  | .getImmInt b off => Sys2Proof.Machine.execGetImmInt b off s
  | .getImmLong b off => Sys2Proof.Machine.execGetImmLong b off s
  | .getImmFloat b off => Sys2Proof.Machine.execGetImmFloat b off s
  | .getImmDouble b off => Sys2Proof.Machine.execGetImmDouble b off s
  | .getImmBytes b off len => Sys2Proof.Machine.execGetImmBytes b off len s
  | .setPayByte b off v => Sys2Proof.Machine.execSetPayByte b off v s
  | .setPayShort b off v => Sys2Proof.Machine.execSetPayShort b off v s
  | .setPayInt b off v => Sys2Proof.Machine.execSetPayInt b off v s
  | .setPayLong b off v => Sys2Proof.Machine.execSetPayLong b off v s
  | .setPayFloat b off v => Sys2Proof.Machine.execSetPayFloat b off v s
  | .setPayDouble b off v => Sys2Proof.Machine.execSetPayDouble b off v s
  | .setPayBytes b off len wbytes => Sys2Proof.Machine.execSetPayBytes b off len wbytes s
  | .getPayByte b off => Sys2Proof.Machine.execGetPayByte b off s
  | .getPayShort b off => Sys2Proof.Machine.execGetPayShort b off s
  | .getPayInt b off => Sys2Proof.Machine.execGetPayInt b off s
  | .getPayLong b off => Sys2Proof.Machine.execGetPayLong b off s
  | .getPayFloat b off => Sys2Proof.Machine.execGetPayFloat b off s
  | .getPayDouble b off => Sys2Proof.Machine.execGetPayDouble b off s
  | .getPayBytes b off len => Sys2Proof.Machine.execGetPayBytes b off len s
  | .cksumCompute b => Sys2Proof.Machine.execCksumCompute b s
  | .cksumMatch b => Sys2Proof.Machine.execCksumMatch b s
  | .getCksum b => Sys2Proof.Machine.execGetCksum b s
  | .setCksum b len wbytes => Sys2Proof.Machine.execSetCksum b len wbytes s
  | .setFooter b => Sys2Proof.Machine.execSetFooter b s
  | .getFooter b => Sys2Proof.Machine.execGetFooter b s
  | .checkFooter b => Sys2Proof.Machine.execCheckFooter b s
  | .msgSize b => Sys2Proof.Machine.execMsgSize b s
  | .putAuto b len wbytes threshold => Sys2Proof.Machine.execPutAuto b len wbytes threshold s
  | .getAuto b => Sys2Proof.Machine.execGetAuto b s
  | .getString b minPrint => Sys2Proof.Machine.execGetString b minPrint s
  | .finalize b msgType => Sys2Proof.Machine.execFinalize b msgType s
  | .hdrParse b => Sys2Proof.Machine.execHdrParse b s
  | .rspClassify b => Sys2Proof.Machine.execRspClassify b s
  | .xact msgType always decOp decArg off len => Sys2Proof.Machine.execXact msgType always decOp decArg off len s

end Sys2Proof.Machine
end

