-- ==== Sys2Proof/Machine/Step.lean ====
section
/-! DEFINITION. One step: the next command the host presents is decoded and run. -/

namespace Sys2Proof.Machine

/-- One step (R5, R66). While the host presents nothing the block holds its state and does nothing (R377; DEDUCED, safe: log entry 18). -/
def step (s : State) : Host.Outcome State Fault Refusal :=
  match fetch s with
  | none => .next s
  | some (c, t) =>
    match decode c with
    | .ok i => exec i t
    | .error e => rejectCommand e t

/-- The state in which the host presents a table row's command word next, with every operand zero
(log entry 1). -/
def State.withFetchWord (s : State) (nbits w : Nat) : State := s.present (tableCommand nbits w)

end Sys2Proof.Machine
end

