-- ==== Sys2Proof/Machine/Pseudo.lean ====
section
/-! DEFINITION. The pseudo-commands (spec/30_encoding.md R103) and the message variants the spec gives (spec/46_marshalling.md R280, R297): short names for sequences of commands. They add no behaviour. -/

namespace Sys2Proof.Machine

/-- Commands run one after another, stopping at the first stop. -/
def execSeq : List Instr → State → StepOutcome
  | [], s => .next s
  | i :: rest, s =>
    match exec i s with
    | .next t => execSeq rest t
    | .fault r => .fault r
    | .refused r => .refused r

/-- `RESET_PAIR` (R103). -/
def resetPair : List Instr := [.init .req, .clear .rsp]

/-- The expansion of `FINALIZE B, t` (R103). -/
def finalizeExpansion (b : BufSel) (t : Word) : List Instr :=
  [.setMsgtype b t, .cksumCompute b, .setFooter b]

/-- `SET_ACK_REQUEST B, v` (R103): the read of the flags, and the write made of what it returned. -/
def setAckRequest (b : BufSel) (v : Bool) (s : State) : StepOutcome :=
  match exec (.getFlags b) s with
  | .next t =>
    match t.response with
    | some r => exec (.setFlags b (withAckRequest s.params.flags (r.rdata.setWidth 16) v)) t
    | none => .next t
  | .fault r => .fault r
  | .refused r => .refused r

/-- `GET_NACK B` (R103), from the flags word a `GET_FLAGS` returned. -/
def nackOfWord (p : FlagPositions) (f : Half) : Bool := f &&& flagMask p.nack != 0

/-- `GET_EXCEPTION B` (R103), from the flags word a `GET_FLAGS` returned. -/
def exceptionOfWord (p : FlagPositions) (f : Half) : Bool := f &&& flagMask p.deviceException != 0

/-! ### Message variants -/

/-- The decode part of a variant, in its two forms (R280): one read command that `XACT` runs on `RSP`, given
by its operand `dec` (R331, R339), or read commands on `RSP` that the host issues after `XACT`, one for each
response field. A variant without a response field is the second form with no command. -/
inductive VariantDecode
  | inXact (decOp decArg : Byte) (off len : Word)
  | afterXact (reads : List Instr)
deriving DecidableEq, Repr

/-- A message variant (R280): its type, whether a response is always expected, the commands that encode the
request, and its decode part. The block holds no table of them. -/
structure Variant where
  msgType : Word
  always : Bool
  encoding : List Instr
  decoding : VariantDecode := .afterXact []
deriving DecidableEq, Repr

/-- An encode command (R280): `SET_IMM_*`, `SET_PAY_*` or `PUT_AUTO`, on `REQ`. -/
def encodesRequest (i : Instr) : Bool :=
  let op := (opcodeOf (encode i).cw).toNat
  bselOf (encode i).cw == .req
    && ([0x30, 0x31, 0x32, 0x33, 0x34, 0x35, 0x36] ++ [0x40, 0x41, 0x42, 0x43, 0x44, 0x45, 0x46] ++ [0x60]).contains op

/-- A decode command (R280): a read command, which is one of the commands `Admissible` lists (R331), on `RSP`. -/
def readsResponse (i : Instr) : Bool :=
  bselOf (encode i).cw == .rsp && admissible (opcodeOf (encode i).cw)

/-- The decode part is of one of its two forms: `XACT` admits the one command, or every command reads `RSP`. -/
def VariantDecode.wellFormed : VariantDecode → Bool
  | .inXact decOp _ _ _ => admissible decOp
  | .afterXact reads => reads.all fun i => i.wellFormed && readsResponse i

/-- The variant is one that R280 describes. -/
def Variant.wellFormed (v : Variant) : Bool :=
  v.encoding.all (fun i => i.wellFormed && encodesRequest i) && v.decoding.wellFormed

/-- The `XACT` of a variant: `dec` is the decode command of the first form, and `decOp = 0x00` for the second
(R280, R339). -/
def Variant.xact (v : Variant) : Instr :=
  match v.decoding with
  | .inXact decOp decArg off len => .xact v.msgType v.always decOp decArg off len
  | .afterXact _ => .xact v.msgType v.always 0 0 0 0

/-- The read commands the host issues after the `XACT` of a variant (R280). -/
def Variant.reads (v : Variant) : List Instr :=
  match v.decoding with
  | .inXact _ _ _ _ => []
  | .afterXact reads => reads

/-- The commands of a variant up to its `XACT` (R281, R402): `INIT REQ`, the request's arguments, `XACT`. -/
def Variant.request (v : Variant) : List Instr := .init .req :: (v.encoding ++ [v.xact])

/-- All commands of a transaction of a variant (R280): those up to `XACT`, then the host's reads of `RSP`. -/
def Variant.transaction (v : Variant) : List Instr := v.request ++ v.reads

/-- Whether an `XACT` answered `Success` with a whole response in `RSP`, as `xres` says (R340). -/
def Response.delivered (r : Response) : Bool :=
  r.xres.extractLsb' 0 4 == XKind.success.code && r.xres.getLsbD 15

/-- Read commands issued one after another, with the response of each, in order. -/
def execReads : List Instr → State → Host.Outcome (State × List Response) Fault Refusal
  | [], s => .next (s, [])
  | i :: rest, s =>
    match exec i s with
    | .next t =>
      match execReads rest t with
      | .next (u, rs) => .next (u, t.response.toList ++ rs)
      | .fault r => .fault r
      | .refused r => .refused r
    | .fault r => .fault r
    | .refused r => .refused r

/-- One transaction of a variant as its host runs it: the commands up to `XACT`, and the reads after it only
when `XACT` returned `Success` with a response (R283, R339, R416). The responses are `XACT`'s, then that of
each read: one for each response field. That the host goes on after a command that faulted is a DESIGN CHOICE,
safe: log entry 20. -/
def Variant.run (v : Variant) (s : State) : Host.Outcome (State × List Response) Fault Refusal :=
  match execSeq v.request s with
  | .next t =>
    if t.response.any Response.delivered then
      match execReads v.reads t with
      | .next (u, rs) => .next (u, t.response.toList ++ rs)
      | .fault r => .fault r
      | .refused r => .refused r
    else .next (t, t.response.toList)
  | .fault r => .fault r
  | .refused r => .refused r

/-- Set integration time (R297): the value in the immediate data at offset 0, no response unless the
ack-request flag asks for one. -/
def setIntegrationTime (value : Word) : Variant :=
  { msgType := msgIdSetIntegrationTime, always := false, encoding := [.setImmInt .req 0 value] }

/-- Get integration time (R297): no argument, the answer read by `GET_IMM_INT RSP` at offset 0. -/
def getIntegrationTime : Variant :=
  { msgType := msgIdGetIntegrationTime, always := true, encoding := [], decoding := .inXact 0x3A 0 0 0 }

end Sys2Proof.Machine
end

