-- ==== Sys2Proof/Safety.lean ====
section
/-! DEFINITION. The terms the statements are made in: the invariant of the machine, the invariants of a built message, and what a command leaves unchanged. -/

namespace Sys2Proof.Machine

/-- The values `xstate` has between two commands (R341): the five inner ones are left inside `XACT`. -/
def XState.atRest : XState → Bool
  | .idle | .success | .failed => true
  | .requestFinalized | .sent | .awaitingHeader | .awaitingRemainder | .decoded => false

/-- The invariant of the machine: both buffers are in canonical form and lie within their capacities
(R52), and the sequencer is at rest (R341). -/
abbrev State.Inv (s : State) : Prop :=
  s.req.wf ∧ s.rsp.wf ∧ s.req.within (s.cap .req) ∧ s.rsp.within (s.cap .rsp)
    ∧ s.xstate.atRest = true

/-- The two invariants R30 gives a buffer that `INIT` set up and the building commands changed. -/
abbrev builtMessage (m : Memory) : Prop := minBr ≤ brOf m ∧ getField m fImmlen ≤ immCap

/-- `Window(B)` passes (R64). -/
abbrev windowPasses (s : State) (b : BufSel) : Prop := minBr ≤ brOf (s.buf b) ∧ msgLen (s.buf b) ≤ s.cap b

/-- The buffer a command does not select. -/
def otherBuf : BufSel → BufSel
  | .req => .rsp
  | .rsp => .req

/-- Everything but the selected buffer and the response is unchanged. -/
def sameOutside (b : BufSel) (s t : State) : Prop :=
  t.params = s.params ∧ t.buf (otherBuf b) = s.buf (otherBuf b) ∧ t.xstate = s.xstate ∧ t.port = s.port
    ∧ t.answers = s.answers ∧ t.calls = s.calls

/-- The command ended with these results and this frame: outside `len(bytes)` bytes from `a` on the
selected buffer reads as before, those bytes are `bytes`, and nothing outside the buffer changed. -/
def wroteSpan (b : BufSel) (a : Nat) (bytes : List Byte) (s t : State) : Prop :=
  sameOutside b s t
    ∧ (∀ i, (h : i < bytes.length) → t.byte b (a + i) = bytes[i])
    ∧ (∀ x, (x < a ∨ a + bytes.length ≤ x) → t.byte b x = s.byte b x)

/-- The step ends in a state that is `s` but for its response, which carries a command fault's code and
`info` and is 0 or empty elsewhere (R9, R362). -/
def faultsWith (code : Byte) (info : Nat) (s : State) : StepOutcome :=
  .next { s with response := some { status := code, rdata := BitVec.ofNat 64 info, rbytes := [], cnt := 0, xres := 0 } }

/-- The step ends in a state that is `s` but for its response, which has status `OK` and these results
(R9, R97); `xres` is 0, as for every command but `XACT` (R340). -/
def answersWith (rdata : Nat) (rbytes : List Byte) (cnt : Nat) (s : State) : StepOutcome :=
  .next { s with response := some { status := 0, rdata := BitVec.ofNat 64 rdata, rbytes := rbytes, cnt := BitVec.ofNat 32 cnt, xres := 0 } }

/-- The response of a command that completed with these results. -/
def completed (rdata cnt : Nat) (t : State) : Prop :=
  t.response = some { status := 0, rdata := BitVec.ofNat 64 rdata, rbytes := [], cnt := BitVec.ofNat 32 cnt, xres := 0 }

/-! ### Classes of commands -/

/-- What a command does to the state. -/
inductive CommandClass
  /-- Sets a whole buffer: `INIT`, `CLEAR`. -/
  | lifecycle
  /-- Changes no state (R59). -/
  | read
  /-- Writes part of the selected buffer. -/
  | build
  /-- `XACT`. -/
  | transaction
deriving DecidableEq, Repr

/-- The class of a command and the buffer it selects; `XACT` selects none. -/
def classOf : Instr → CommandClass × Option BufSel
  | .init b | .clear b => (.lifecycle, some b)
  | .getSync b | .getVer b | .getFlags b | .getErrno b | .getMsgtype b
  | .getRegarding b | .getRsvd b | .getCktype b | .getImmlen b | .getBytesrem b => (.read, some b)
  | .setSync b _ | .setVer b _ | .setFlags b _ | .setErrno b _ | .setMsgtype b _
  | .setRegarding b _ | .setRsvd b _ | .setCktype b _ | .setImmlen b _ | .setBytesrem b _ => (.build, some b)
  | .setImmByte b _ _ | .setImmShort b _ _ | .setImmInt b _ _ | .setImmLong b _ _
  | .setImmFloat b _ _ | .setImmDouble b _ _ | .setImmBytes b _ _ _ => (.build, some b)
  | .getImmByte b _ | .getImmShort b _ | .getImmInt b _ | .getImmLong b _
  | .getImmFloat b _ | .getImmDouble b _ | .getImmBytes b _ _ => (.read, some b)
  | .setPayByte b _ _ | .setPayShort b _ _ | .setPayInt b _ _ | .setPayLong b _ _
  | .setPayFloat b _ _ | .setPayDouble b _ _ | .setPayBytes b _ _ _ => (.build, some b)
  | .getPayByte b _ | .getPayShort b _ | .getPayInt b _ | .getPayLong b _
  | .getPayFloat b _ | .getPayDouble b _ | .getPayBytes b _ _ => (.read, some b)
  | .cksumCompute b | .setCksum b _ _ | .setFooter b => (.build, some b)
  | .cksumMatch b | .getCksum b | .getFooter b | .checkFooter b | .msgSize b => (.read, some b)
  | .putAuto b _ _ _ | .finalize b _ => (.build, some b)
  | .getAuto b | .getString b _ | .hdrParse b | .rspClassify b => (.read, some b)
  | .xact _ _ _ _ _ _ => (.transaction, none)

/-- A command word that R100 does not define: reserved bits set, an opcode in a gap of the map, or `XACT`
with `bsel = 1`. -/
def undefinedWord (cw : Half) : Prop :=
  let op := cw.toNat % 256
  cw.toNat / 512 ≠ 0 ∨ (op = 0x73 ∧ cw.getLsbD 8 = true)
    ∨ op = 0x00 ∨ (0x03 ≤ op ∧ op ≤ 0x0F) ∨ (0x1A ≤ op ∧ op ≤ 0x1F) ∨ (0x2A ≤ op ∧ op ≤ 0x2F)
    ∨ op = 0x37 ∨ op = 0x3F ∨ op = 0x47 ∨ op = 0x4F ∨ (0x58 ≤ op ∧ op ≤ 0x5F)
    ∨ (0x63 ≤ op ∧ op ≤ 0x6F) ∨ 0x74 ≤ op

/-- The decode opcodes `XACT` admits (R331). -/
def admitted (decOp : Byte) : Prop :=
  let op := decOp.toNat
  op = 0x00 ∨ (0x10 ≤ op ∧ op ≤ 0x19) ∨ (0x38 ≤ op ∧ op ≤ 0x3E) ∨ (0x48 ≤ op ∧ op ≤ 0x4E)
    ∨ op = 0x51 ∨ op = 0x52 ∨ op = 0x55 ∨ op = 0x56 ∨ op = 0x57 ∨ op = 0x61 ∨ op = 0x62
    ∨ op = 0x71 ∨ op = 0x72

/-! ### What a region command does -/

/-- `bytes_n(v)` as R8 writes it: byte `i` is `v[8i+7:8i]`. -/
def sliceBytes {w : Nat} (n : Nat) (v : BitVec w) : List Byte :=
  (List.range n).map fun i => v.extractLsb' (8 * i) 8

/-- The outcome `o` is that of `ImmWrite(B, off, bytes)` on `s` (R181): the first `w = min(n, 16 - off)`
bytes at `24 + off`, `IMMLEN <- off + w`, `cnt <- w`, every other byte as before; or the fault. -/
def immSetSpec (b : BufSel) (off : Nat) (bytes : List Byte) (s : State) (o : StepOutcome) : Prop :=
  (off ≤ 16 → ∃ t, o = .next t ∧ sameOutside b s t
      ∧ completed 0 (min bytes.length (16 - off)) t
      ∧ (∀ i, (h : i < bytes.length) → i < 16 - off → t.byte b (24 + off + i) = bytes[i])
      ∧ (t.byte b 23).toNat = off + min bytes.length (16 - off)
      ∧ (∀ x, x ≠ 23 → (x < 24 + off ∨ 24 + off + min bytes.length (16 - off) ≤ x) →
          t.byte b x = s.byte b x))
  ∧ (16 < off → o = faultsWith 2 off s)

/-- The outcome `o` is that of a scalar `ImmRead(B, off, n)` on `s` (R182). -/
def immGetSpec (b : BufSel) (off n : Nat) (s : State) (o : StepOutcome) : Prop :=
  (off + n ≤ 16 → o = answersWith (leValue (memRead (s.buf b) (24 + off) n)) [] 0 s)
  ∧ (16 < off + n → o = faultsWith 2 (off + n) s)

/-- The outcome `o` is that of `PayWrite(B, off, bytes)` on `s` (R213): all the bytes at `44 + off`,
`BYTESREM <- off + n + 20`, `cnt <- n`, every other byte as before; or the fault. -/
def paySetSpec (b : BufSel) (off : Nat) (bytes : List Byte) (s : State) (o : StepOutcome) : Prop :=
  (44 + off + bytes.length ≤ s.cap b → ∃ t, o = .next t ∧ sameOutside b s t
      ∧ completed 0 bytes.length t
      ∧ (∀ i, (h : i < bytes.length) → t.byte b (44 + off + i) = bytes[i])
      ∧ brOf (t.buf b) = off + bytes.length + 20
      ∧ (∀ x, (x < 40 ∨ 44 ≤ x) → (x < 44 + off ∨ 44 + off + bytes.length ≤ x) →
          t.byte b x = s.byte b x))
  ∧ (s.cap b < 44 + off + bytes.length → o = faultsWith 1 (44 + off + bytes.length) s)

/-- The outcome `o` is that of `PayRead(B, off, n)` on `s` (R214), which answers `ans` when it passes its
three tests; they are made in this order. -/
def payGetSpec (b : BufSel) (off n : Nat) (s : State) (ans o : StepOutcome) : Prop :=
  (brOf (s.buf b) < 20 → o = faultsWith 3 (brOf (s.buf b)) s)
  ∧ (20 ≤ brOf (s.buf b) → brOf (s.buf b) - 20 < off + n → o = faultsWith 2 (off + n) s)
  ∧ (20 ≤ brOf (s.buf b) → off + n ≤ brOf (s.buf b) - 20 → s.cap b < 44 + off + n →
      o = faultsWith 1 (44 + off + n) s)
  ∧ (20 ≤ brOf (s.buf b) → off + n ≤ brOf (s.buf b) - 20 → 44 + off + n ≤ s.cap b → o = ans)

/-- The outcome `o` is a fault of `Window(B)` on `s` whenever it does not pass (R64). -/
def windowFaultSpec (b : BufSel) (s : State) (o : StepOutcome) : Prop :=
  (brOf (s.buf b) < 20 → o = faultsWith 3 (brOf (s.buf b)) s)
  ∧ (20 ≤ brOf (s.buf b) → s.cap b < 44 + brOf (s.buf b) → o = faultsWith 1 (44 + brOf (s.buf b)) s)

/-- The outcome `o` is that of a common setter on `s` (R142): exactly the field's bytes at `a` are written. -/
def writesOnly (b : BufSel) (a : Nat) (bytes : List Byte) (s : State) (o : StepOutcome) : Prop :=
  ∃ t, o = .next t ∧ completed 0 0 t ∧ wroteSpan b a bytes s t

/-- The header's fields, the immediate data among them (R22). -/
def headerFields : List Field :=
  [fSync, fVer, fFlags, fErrno, fMsgtype, fRegarding, fRsvd, fCktype, fImmlen, ⟨24, 16⟩, fBytesrem]

/-- After the setter of field `f` its getter returns `v`, and no other field has changed (R143). -/
def headerRoundTrip (b : BufSel) (f : Field) (v : Nat) (s : State) (set : StepOutcome)
    (get : State → StepOutcome) : Prop :=
  ∃ t, set = .next t ∧ get t = answersWith v [] 0 t
    ∧ ∀ g ∈ headerFields, g ≠ f → getField (t.buf b) g = getField (s.buf b) g

/-- After an immediate setter of an `n`-byte value the getter at the same offset returns it, or faults when
the span was truncated (R184). -/
def immRoundTrip (off n : Nat) (set : StepOutcome) (get : State → StepOutcome) (ans : State → StepOutcome) : Prop :=
  (off + n ≤ 16 → ∃ t, set = .next t ∧ completed 0 n t ∧ get t = ans t)
  ∧ (off ≤ 16 → 16 < off + n → ∃ t, set = .next t ∧ get t = faultsWith 2 (off + n) t)

/-- After a payload setter of an `n`-byte value that fits, the getter at the same offset returns it (R236). -/
def payRoundTrip (b : BufSel) (off n : Nat) (s : State) (set : StepOutcome) (get : State → StepOutcome)
    (ans : State → StepOutcome) : Prop :=
  44 + off + n ≤ s.cap b → ∃ t, set = .next t ∧ completed 0 n t ∧ get t = ans t

/-- The bytes and the path `GET_AUTO` selects (R288): the immediate data in use, else the whole payload. -/
def autoSelected (b : BufSel) (s : State) (path : Nat) (bytes : List Byte) : Prop :=
  let used := (s.byte b 23).toNat
  let br := brOf (s.buf b)
  (0 < used ∧ used ≤ 16 ∧ path = 0 ∧ bytes = memRead (s.buf b) 24 used)
  ∨ (used = 0 ∧ 20 ≤ br ∧ 44 + (br - 20) ≤ s.cap b ∧ path = 1 ∧ bytes = memRead (s.buf b) 44 (br - 20))

/-- The outcome `o` is the fault of `GET_AUTO` on `s` whenever it selects nothing (R288). -/
def autoFaultSpec (b : BufSel) (s : State) (o : StepOutcome) : Prop :=
  let used := (s.byte b 23).toNat
  let br := brOf (s.buf b)
  (16 < used → o = faultsWith 4 used s)
  ∧ (used = 0 → br < 20 → o = faultsWith 3 br s)
  ∧ (used = 0 → 20 ≤ br → s.cap b < 44 + (br - 20) → o = faultsWith 1 (44 + (br - 20)) s)

/-- `Expected(B)` (R250), of the bytes of `m`. -/
def expectedOf (m : Memory) : List Byte :=
  if readByte m 22 = 1 then md5 (memRead m 0 (44 + (brOf m - 20))) else List.replicate 16 0

/-! ### What a transaction does -/

/-- `xres` from its fields (R340). -/
def xresWord (kind io step xs rspValid errno fault : Nat) : Word48 :=
  BitVec.ofNat 48 (kind + 2 ^ 4 * io + 2 ^ 8 * step + 2 ^ 12 * xs + 2 ^ 15 * rspValid
    + 2 ^ 16 * errno + 2 ^ 32 * fault)

/-- The response is `OK` with this `xres` and no results of a decode command. -/
def endsWith (x : Word48) (t : State) : Prop :=
  t.response = some { status := 0, rdata := 0, rbytes := [], cnt := 0, xres := x }

/-- The transaction from `s` to `t` finalized `REQ` as `FINALIZE REQ, msgType` does (R332) and made these
calls of the transport (newest first) after sending the finalized message (R333), leaving these answers;
it changed no parameter and took no other command. -/
def transacted (msgType : Word) (received : List TransportCall) (rest : List TransportAnswer)
    (s t : State) : Prop :=
  ∃ u, exec (.finalize .req msgType) s = .next u ∧ t.req = u.req
    ∧ t.calls = received ++ .sendBytes (memRead u.req 0 (44 + brOf u.req)) :: s.calls
    ∧ t.answers = rest ∧ t.params = s.params ∧ t.port = s.port

/-- `RSP` of `t` at an address outside every received span, after the clear of step 5 (R335). -/
def clearedByte (s : State) (a : Nat) : Byte := if s.params.xactClearsRsp then 0 else s.byte .rsp a

/-- The bytes-remaining field of a received header. -/
def headerBr (h : List Byte) : Nat := leValue ((h.drop 40).take 4)

/-- `XACT` awaits a response (R334). -/
def awaitsResponse (always : Bool) (s : State) : Prop :=
  always = true ∨ ackRequested s.params.flags s.req = true

/-- A run that never stops: neither a stuck transport nor a refused record is met in `k` steps. -/
def safeRun (k : Nat) (s : State) : Prop :=
  ∃ t, Host.Core.run { State := State, Fault := Fault, Refusal := Refusal, step := step, reset := State.reset } k s
    = .next t

end Sys2Proof.Machine
end

