-- ==== Sys2Proof/Certificates/Slice0/Obligations.lean ====
section
/-! DEFINITION. The statements for the provers. Each docstring names the rule of spec/ it formalises. -/

open Sys2Proof Sys2Proof.Machine

/-- Decoding the encoding of a well-formed instruction gives it back (30_encoding.md R98, 30_encoding.md R99, 30_encoding.md R101). -/
def Obligations.DecodeOfEncodeIsInstr : Prop :=
  ∀ i : Instr, i.wellFormed = true → decode (encode i) = .ok i

/-- What the decoder accepts is well-formed and encodes to the same command word (30_encoding.md R97, 30_encoding.md R98, 30_encoding.md R99). -/
def Obligations.DecodedCommandsAreWellFormed : Prop :=
  ∀ (c : Command) (i : Instr), decode c = .ok i → i.wellFormed = true ∧ (encode i).cw = c.cw

/-- Exactly the words R100 lists fault IllegalOp, and then nothing but the response changes (30_encoding.md R100, 60_exceptions.md R360, 60_exceptions.md R365). -/
def Obligations.UndefinedWordsFaultIllegalOp : Prop :=
  ∀ (c : Command) (s : State),
    (undefinedWord c.cw → step (s.present c) = faultsWith 5 0 s)
    ∧ (¬ undefinedWord c.cw → decode c ≠ .error .illegalOp)

/-- Written-out command records decode to the commands they stand for (30_encoding.md R98, 30_encoding.md R99, 30_encoding.md R101). -/
def Obligations.SampleWordsDecode : Prop :=
  decode ⟨0x0101, 0, 0, 0, []⟩ = .ok (.init .rsp)
    ∧ decode ⟨0x0019, 0, 0, 0, []⟩ = .ok (.getBytesrem .req)
    ∧ decode ⟨0x0026, 0, 0, 0xFFFF060504030201, []⟩ = .ok (.setRsvd .req 0x060504030201)
    ∧ decode ⟨0x0032, 14, 0, 0xAABBCCDD, []⟩ = .ok (.setImmInt .req 14 0xAABBCCDD)
    ∧ decode ⟨0x013A, 0, 0, 0, []⟩ = .ok (.getImmInt .rsp 0)
    ∧ decode ⟨0x0046, 5, 2, 0, [1, 2]⟩ = .ok (.setPayBytes .req 5 2 [1, 2])
    ∧ decode ⟨0x014E, 0, 21, 0, []⟩ = .ok (.getPayBytes .rsp 0 21)
    ∧ decode ⟨0x0151, 0, 0, 0, []⟩ = .ok (.cksumMatch .rsp)
    ∧ decode ⟨0x0060, 0, 1, 0x10E, [7]⟩ = .ok (.putAuto .req 1 [7] 14)
    ∧ decode ⟨0x0070, 0, 0, 0x00110000, []⟩ = .ok (.finalize .req 0x00110000)
    ∧ decode ⟨0x0073, 6, 7, 0x00204E0100000100, []⟩ = .ok (.xact 0x100 true 0x4E 0x20 6 7)

/-- A step runs the command the host presents next (20_memory.md R66, 30_encoding.md R97).
That the commands stand in a field of the state is the model's choice (log entry 1). -/
def Obligations.StepRunsDecodedCommand : Prop :=
  ∀ (s : State) (c : Command) (rest : List Command) (i : Instr),
    s.port = c :: rest → decode c = .ok i → step s = exec i { s with port := rest }

/-- With no command the block holds its state; a record with the wrong count of wbytes is refused (60_exceptions.md R377, 30_encoding.md R97, 93_implementation_defined.md U29).
The idle step and the refusal are the model's reading of these sentences (log entries 1, 10, 18). -/
def Obligations.StepWithoutAnInstruction : Prop :=
  ∀ (s : State) (c : Command),
    (s.port = [] → step s = .next s)
    ∧ (decode c = .error .wbytesLength →
        c.wbytes.length ≠ c.len.toNat ∧ step (s.present c) = .refused .wbytesLength)

/-- After reset xstate is Idle and no command is in progress, whatever the buffers hold (10_state.md R36, 70_reset_and_hazards.md R400, 70_reset_and_hazards.md R401).
The fields for the port, the response and the transport are the model's own (log entries 1, 4, 5), and so is
that the reset event comes between two commands (log entry 19). -/
def Obligations.ResetLeavesSequencerIdle : Prop :=
  (∀ (p : Params) (m n : Memory),
      (State.resetWith p m n).xstate = .idle ∧ (State.resetWith p m n).req = m
      ∧ (State.resetWith p m n).rsp = n ∧ (State.resetWith p m n).params = p
      ∧ (State.resetWith p m n).response = none ∧ (State.resetWith p m n).calls = [])
    ∧ (∃ p m n, State.reset = State.resetWith p m n)
    ∧ ∀ (s : State) (m n : Memory),
        (s.resetEvent m n).xstate = .idle ∧ (s.resetEvent m n).req = m ∧ (s.resetEvent m n).rsp = n
        ∧ (s.resetEvent m n).response = none
        ∧ (s.resetEvent m n).params = s.params ∧ (s.resetEvent m n).port = s.port
        ∧ (s.resetEvent m n).answers = s.answers ∧ (s.resetEvent m n).calls = s.calls

/-- The invariant of the machine holds after reset (70_reset_and_hazards.md R400, 20_memory.md R52, 47_transaction.md R341).
The canonical form of a buffer, and what State.reset reads as, are the model's choice (log entries 2, 3). -/
def Obligations.ResetMeetsInvariant : Prop :=
  State.reset.Inv
    ∧ ∀ (p : Params) (m n : Memory), m.wf → n.wf → m.within p.capReq.bytes → n.within p.capRsp.bytes →
        (State.resetWith p m n).Inv

/-- Every step keeps the buffers canonical and inside their capacities, and the sequencer at rest (20_memory.md R52, 20_memory.md R64, 47_transaction.md R341).
The canonical form of a buffer is the model's choice (log entry 3), and that a transaction is one step (log entry 11). -/
def Obligations.StepKeepsInvariant : Prop :=
  ∀ s t : State, s.Inv → step s = .next t → t.Inv

/-- A command that faults leaves everything but its response as it was (R362). -/
def Obligations.FaultedCommandChangesNothing : Prop :=
  ∀ (i : Instr) (s t : State) (r : Response),
    exec i s = .next t → t.response = some r → r.status ≠ 0 →
      ∃ f : CmdFault, exec i s = faultsWith f.code f.info s

/-- Every command that ends has answered, with a status of R360, and has changed no parameter (30_encoding.md R97, 60_exceptions.md R360, 47_transaction.md R340, 70_reset_and_hazards.md R400).
The field that holds the response is the model's own (log entry 4). -/
def Obligations.EveryCommandAnswers : Prop :=
  ∀ (i : Instr) (s t : State), exec i s = .next t →
    t.params = s.params ∧ t.port = s.port
    ∧ ∃ r, t.response = some r ∧ r.status.toNat ≤ 5
        ∧ ((classOf i).1 ≠ .transaction → r.xres = 0) ∧ (r.status ≠ 0 → r.xres = 0)

/-- No command stops the machine unless the transport never answers (60_exceptions.md R364, 93_implementation_defined.md U44).
That silence is a fault is the model's reading of U44 (log entry 9). -/
def Obligations.OnlySilentTransportStops : Prop :=
  ∀ (i : Instr) (s : State),
    (∃ t, exec i s = .next t)
    ∨ ((classOf i).1 = .transaction ∧ .silent ∈ s.answers.take 3
        ∧ exec i s = .fault .transportNeverAnswers)

/-- No read has a side effect, and repeating it gives the same response (20_memory.md R59). -/
def Obligations.ReadCommandsChangeNoState : Prop :=
  ∀ (i : Instr) (s : State), (classOf i).1 = .read →
    ∃ r, exec i s = .next { s with response := some r }
      ∧ exec i { s with response := some r } = .next { s with response := some r }

/-- Every command but XACT leaves xstate, the transport and the buffer it does not select alone (10_state.md R32, 47_transaction.md R341, 20_memory.md R54).
The fields for the transport are the model's own (log entry 5). -/
def Obligations.OnlyXactMovesSequencer : Prop :=
  ∀ (i : Instr) (s t : State) (b : BufSel), (classOf i).2 = some b → exec i s = .next t →
    t.xstate = s.xstate ∧ t.calls = s.calls ∧ t.answers = s.answers
    ∧ t.buf (otherBuf b) = s.buf (otherBuf b)

/-- Doing a command other than XACT twice leaves the same state as doing it once (20_memory.md R59, 45_checksum_footer.md R252, 47_transaction.md R320).
That the whole state is equal, response included, rests on the model's canonical form and response field (log entries 3, 4). -/
def Obligations.RepeatedCommandChangesNothing : Prop :=
  ∀ (i : Instr) (s t : State), s.Inv → i.wellFormed = true → (classOf i).1 ≠ .transaction →
    exec i s = .next t → exec i t = .next t

/-- INIT establishes bytes-remaining >= 20 and immediate length <= 16, and the building commands keep them (10_state.md R30). -/
def Obligations.BuildingCommandsKeepMessageLegal : Prop :=
  (∀ (s : State) (b : BufSel), ∃ t, exec (.init b) s = .next t ∧ builtMessage (t.buf b))
    ∧ ∀ (i : Instr) (s t : State) (b : BufSel), i.wellFormed = true → classOf i = (.build, some b) →
        builtMessage (s.buf b) → exec i s = .next t → builtMessage (t.buf b)

/-- The commands R361 lists never fault, and an immediate setter never faults for length (60_exceptions.md R361, 43_immediate.md R181, 42_header_fields.md R142).
The spec marks R361 as derived from its other rules. -/
def Obligations.CommandsThatNeverFault : Prop :=
  ∀ (s : State) (b : BufSel),
    let ok : StepOutcome → Prop := fun o => ∃ t r, o = .next t ∧ t.response = some r ∧ r.status = 0
    ok (exec (.init b) s)
    ∧ ok (exec (.clear b) s)
    ∧ ok (exec (.getSync b) s)
    ∧ ok (exec (.getVer b) s)
    ∧ ok (exec (.getFlags b) s)
    ∧ ok (exec (.getErrno b) s)
    ∧ ok (exec (.getMsgtype b) s)
    ∧ ok (exec (.getRegarding b) s)
    ∧ ok (exec (.getRsvd b) s)
    ∧ ok (exec (.getCktype b) s)
    ∧ ok (exec (.getImmlen b) s)
    ∧ ok (exec (.getBytesrem b) s)
    ∧ ok (exec (.msgSize b) s)
    ∧ ok (exec (.hdrParse b) s)
    ∧ ok (exec (.rspClassify b) s)
    ∧ (∀ v, ok (exec (.setSync b v) s))
    ∧ (∀ v, ok (exec (.setVer b v) s))
    ∧ (∀ v, ok (exec (.setFlags b v) s))
    ∧ (∀ v, ok (exec (.setErrno b v) s))
    ∧ (∀ v, ok (exec (.setMsgtype b v) s))
    ∧ (∀ v, ok (exec (.setRegarding b v) s))
    ∧ (∀ v, ok (exec (.setRsvd b v) s))
    ∧ (∀ v, ok (exec (.setCktype b v) s))
    ∧ (∀ v, ok (exec (.setBytesrem b v) s))
    ∧ (∀ off v, off.toNat ≤ 16 → ok (exec (.setImmByte b off v) s))
    ∧ (∀ off v, off.toNat ≤ 16 → ok (exec (.setImmShort b off v) s))
    ∧ (∀ off v, off.toNat ≤ 16 → ok (exec (.setImmInt b off v) s))
    ∧ (∀ off v, off.toNat ≤ 16 → ok (exec (.setImmLong b off v) s))
    ∧ (∀ off v, off.toNat ≤ 16 → ok (exec (.setImmFloat b off v) s))
    ∧ (∀ off v, off.toNat ≤ 16 → ok (exec (.setImmDouble b off v) s))
    ∧ (∀ off len w, off.toNat ≤ 16 → ok (exec (.setImmBytes b off len w) s))

/-- INIT zeroes the whole buffer and writes sync, version, bytes-remaining 20 and the footer at 60 (R131). -/
def Obligations.InitLeavesFreshMessage : Prop :=
  ∀ (s : State) (b : BufSel), ∃ t, exec (.init b) s = .next t ∧ completed 0 0 t ∧ sameOutside b s t
    ∧ (∀ a, t.byte b a =
        if a = 0 then 0xC1 else if a = 1 then 0xC0 else if a = 3 then 0x11 else if a = 40 then 0x14
        else if a = 60 then 0xC5 else if a = 61 then 0xC4 else if a = 62 then 0xC3 else if a = 63 then 0xC2
        else 0)
    ∧ exec (.cksumMatch b) t = answersWith 1 [] 0 t ∧ exec (.checkFooter b) t = answersWith 1 [] 0 t
    ∧ exec (.msgSize b) t = answersWith 64 [] 0 t

/-- CLEAR zeroes the whole buffer, which then holds no valid message: every command that derives an offset
faults BadLength, whatever its other operands (R133). Of SET_CKSUM these are the operands it admits: another
len faults BadValue before bytes-remaining is read, which SetCksumWritesBytes says. -/
def Obligations.ClearLeavesZeros : Prop :=
  ∀ (s : State) (b : BufSel), ∃ t, exec (.clear b) s = .next t ∧ completed 0 0 t ∧ sameOutside b s t
    ∧ (∀ a, t.byte b a = 0)
    ∧ (∀ i ∈ [Instr.cksumCompute b, .cksumMatch b, .getCksum b, .setFooter b, .getFooter b, .checkFooter b, .getAuto b],
          exec i t = faultsWith 3 0 t)
    ∧ (∀ wbytes, exec (.setCksum b 16 wbytes) t = faultsWith 3 0 t)
    ∧ (∀ minPrint, exec (.getString b minPrint) t = faultsWith 3 0 t)
    ∧ (∀ msgType, exec (.finalize b msgType) t = faultsWith 3 0 t)
    ∧ (∀ off, ∀ i ∈ [Instr.getPayByte b off, .getPayShort b off, .getPayInt b off, .getPayLong b off, .getPayFloat b off,
          .getPayDouble b off], exec i t = faultsWith 3 0 t)
    ∧ (∀ off len, exec (.getPayBytes b off len) t = faultsWith 3 0 t)
    ∧ exec (.msgSize b) t = answersWith 44 [] 0 t

/-- Each header getter answers the little-endian value of its field's bytes (R141, R145, R146, R147, R148, R149, R150, R151, R152, R153, R154). -/
def Obligations.HeaderGettersReturnField : Prop :=
  ∀ (s : State) (b : BufSel),
    exec (.getSync b) s = answersWith (leValue [s.byte b 0, s.byte b 1]) [] 0 s
    ∧ exec (.getVer b) s = answersWith (leValue [s.byte b 2, s.byte b 3]) [] 0 s
    ∧ exec (.getFlags b) s = answersWith (leValue [s.byte b 4, s.byte b 5]) [] 0 s
    ∧ exec (.getErrno b) s = answersWith (leValue [s.byte b 6, s.byte b 7]) [] 0 s
    ∧ exec (.getMsgtype b) s = answersWith (leValue [s.byte b 8, s.byte b 9, s.byte b 10, s.byte b 11]) [] 0 s
    ∧ exec (.getRegarding b) s = answersWith (leValue [s.byte b 12, s.byte b 13, s.byte b 14, s.byte b 15]) [] 0 s
    ∧ exec (.getRsvd b) s = answersWith (leValue [s.byte b 16, s.byte b 17, s.byte b 18, s.byte b 19, s.byte b 20, s.byte b 21]) [] 0 s
    ∧ exec (.getCktype b) s = answersWith (leValue [s.byte b 22]) [] 0 s
    ∧ exec (.getImmlen b) s = answersWith (leValue [s.byte b 23]) [] 0 s
    ∧ exec (.getBytesrem b) s = answersWith (leValue [s.byte b 40, s.byte b 41, s.byte b 42, s.byte b 43]) [] 0 s

/-- Each unchecked header setter writes exactly its field's bytes (R142). -/
def Obligations.HeaderSettersWriteFieldOnly : Prop :=
  ∀ (s : State) (b : BufSel),
    (∀ v, writesOnly b 0 (sliceBytes 2 v) s (exec (.setSync b v) s))
    ∧ (∀ v, writesOnly b 2 (sliceBytes 2 v) s (exec (.setVer b v) s))
    ∧ (∀ v, writesOnly b 4 (sliceBytes 2 v) s (exec (.setFlags b v) s))
    ∧ (∀ v, writesOnly b 6 (sliceBytes 2 v) s (exec (.setErrno b v) s))
    ∧ (∀ v, writesOnly b 8 (sliceBytes 4 v) s (exec (.setMsgtype b v) s))
    ∧ (∀ v, writesOnly b 12 (sliceBytes 4 v) s (exec (.setRegarding b v) s))
    ∧ (∀ v, writesOnly b 16 (sliceBytes 6 v) s (exec (.setRsvd b v) s))
    ∧ (∀ v, writesOnly b 22 (sliceBytes 1 v) s (exec (.setCktype b v) s))

/-- SET_IMMLEN stores a value up to 16 and faults BadValue above it (R168). -/
def Obligations.SetImmlenRefusesAboveSixteen : Prop :=
  ∀ (s : State) (b : BufSel) (v : Byte),
    (v.toNat ≤ 16 → writesOnly b 23 [v] s (exec (.setImmlen b v) s))
    ∧ (16 < v.toNat → exec (.setImmlen b v) s = faultsWith 4 v.toNat s)

/-- SET_BYTESREM stores max(v, 20) and nothing else (R169). -/
def Obligations.SetBytesremRaisesToTwenty : Prop :=
  ∀ (s : State) (b : BufSel) (v : Word),
    writesOnly b 40 (sliceBytes 4 (BitVec.ofNat 32 (max v.toNat 20))) s (exec (.setBytesrem b v) s)

/-- A header field set is got back, and the setter leaves every other field unchanged (R143). -/
def Obligations.HeaderSetThenGet : Prop :=
  ∀ (s : State) (b : BufSel),
    (∀ v, headerRoundTrip b fSync v.toNat s (exec (.setSync b v) s) (exec (.getSync b)))
    ∧ (∀ v, headerRoundTrip b fVer v.toNat s (exec (.setVer b v) s) (exec (.getVer b)))
    ∧ (∀ v, headerRoundTrip b fFlags v.toNat s (exec (.setFlags b v) s) (exec (.getFlags b)))
    ∧ (∀ v, headerRoundTrip b fErrno v.toNat s (exec (.setErrno b v) s) (exec (.getErrno b)))
    ∧ (∀ v, headerRoundTrip b fMsgtype v.toNat s (exec (.setMsgtype b v) s) (exec (.getMsgtype b)))
    ∧ (∀ v, headerRoundTrip b fRegarding v.toNat s (exec (.setRegarding b v) s) (exec (.getRegarding b)))
    ∧ (∀ v, headerRoundTrip b fRsvd v.toNat s (exec (.setRsvd b v) s) (exec (.getRsvd b)))
    ∧ (∀ v, headerRoundTrip b fCktype v.toNat s (exec (.setCktype b v) s) (exec (.getCktype b)))
    ∧ (∀ v, v.toNat ≤ 16 → headerRoundTrip b fImmlen v.toNat s (exec (.setImmlen b v) s) (exec (.getImmlen b)))
    ∧ (∀ v, headerRoundTrip b fBytesrem (max v.toNat 20) s (exec (.setBytesrem b v) s) (exec (.getBytesrem b)))

/-- Immediate setters write the bytes that fit, set the length to off + w, and fault only for off > 16 (R181). -/
def Obligations.ImmSettersTruncate : Prop :=
  ∀ (s : State) (b : BufSel) (off : Word),
    (∀ v, immSetSpec b off.toNat (sliceBytes 1 v) s (exec (.setImmByte b off v) s))
    ∧ (∀ v, immSetSpec b off.toNat (sliceBytes 2 v) s (exec (.setImmShort b off v) s))
    ∧ (∀ v, immSetSpec b off.toNat (sliceBytes 4 v) s (exec (.setImmInt b off v) s))
    ∧ (∀ v, immSetSpec b off.toNat (sliceBytes 8 v) s (exec (.setImmLong b off v) s))
    ∧ (∀ v, immSetSpec b off.toNat (sliceBytes 4 v) s (exec (.setImmFloat b off v) s))
    ∧ (∀ v, immSetSpec b off.toNat (sliceBytes 8 v) s (exec (.setImmDouble b off v) s))
    ∧ (∀ len wbytes, wbytes.length = len.toNat →
        immSetSpec b off.toNat wbytes s (exec (.setImmBytes b off len wbytes) s))

/-- Immediate getters answer the bytes of the region and fault when the span leaves it (R182). -/
def Obligations.ImmGettersStayInRegion : Prop :=
  ∀ (s : State) (b : BufSel) (off : Word),
    immGetSpec b off.toNat 1 s (exec (.getImmByte b off) s)
    ∧ immGetSpec b off.toNat 2 s (exec (.getImmShort b off) s)
    ∧ immGetSpec b off.toNat 4 s (exec (.getImmInt b off) s)
    ∧ immGetSpec b off.toNat 8 s (exec (.getImmLong b off) s)
    ∧ immGetSpec b off.toNat 4 s (exec (.getImmFloat b off) s)
    ∧ immGetSpec b off.toNat 8 s (exec (.getImmDouble b off) s)
    ∧ (∀ len : Word,
        (off.toNat + len.toNat ≤ 16 → exec (.getImmBytes b off len) s
            = answersWith 0 (memRead (s.buf b) (24 + off.toNat) len.toNat) len.toNat s)
        ∧ (16 < off.toNat + len.toNat →
            exec (.getImmBytes b off len) s = faultsWith 2 (off.toNat + len.toNat) s))

/-- An immediate value set is got back, and a truncated one is not recoverable (43_immediate.md R184, 43_immediate.md R181, 43_immediate.md R182).
The spec marks R184 as derived from R181 and R182. -/
def Obligations.ImmSetThenGet : Prop :=
  ∀ (s : State) (b : BufSel) (off : Word),
    (∀ v, immRoundTrip off.toNat 1 (exec (.setImmByte b off v) s) (exec (.getImmByte b off)) (answersWith v.toNat [] 0))
    ∧ (∀ v, immRoundTrip off.toNat 2 (exec (.setImmShort b off v) s) (exec (.getImmShort b off)) (answersWith v.toNat [] 0))
    ∧ (∀ v, immRoundTrip off.toNat 4 (exec (.setImmInt b off v) s) (exec (.getImmInt b off)) (answersWith v.toNat [] 0))
    ∧ (∀ v, immRoundTrip off.toNat 8 (exec (.setImmLong b off v) s) (exec (.getImmLong b off)) (answersWith v.toNat [] 0))
    ∧ (∀ v, immRoundTrip off.toNat 4 (exec (.setImmFloat b off v) s) (exec (.getImmFloat b off)) (answersWith v.toNat [] 0))
    ∧ (∀ v, immRoundTrip off.toNat 8 (exec (.setImmDouble b off v) s) (exec (.getImmDouble b off)) (answersWith v.toNat [] 0))
    ∧ (∀ len wbytes, wbytes.length = len.toNat → immRoundTrip off.toNat len.toNat
        (exec (.setImmBytes b off len wbytes) s) (exec (.getImmBytes b off len)) (answersWith 0 wbytes len.toNat))

/-- Payload setters write every byte and set bytes-remaining, or fault and write nothing (R213). -/
def Obligations.PaySettersNeverTruncate : Prop :=
  ∀ (s : State) (b : BufSel) (off : Word),
    (∀ v, paySetSpec b off.toNat (sliceBytes 1 v) s (exec (.setPayByte b off v) s))
    ∧ (∀ v, paySetSpec b off.toNat (sliceBytes 2 v) s (exec (.setPayShort b off v) s))
    ∧ (∀ v, paySetSpec b off.toNat (sliceBytes 4 v) s (exec (.setPayInt b off v) s))
    ∧ (∀ v, paySetSpec b off.toNat (sliceBytes 8 v) s (exec (.setPayLong b off v) s))
    ∧ (∀ v, paySetSpec b off.toNat (sliceBytes 4 v) s (exec (.setPayFloat b off v) s))
    ∧ (∀ v, paySetSpec b off.toNat (sliceBytes 8 v) s (exec (.setPayDouble b off v) s))
    ∧ (∀ len wbytes, wbytes.length = len.toNat →
        paySetSpec b off.toNat wbytes s (exec (.setPayBytes b off len wbytes) s))

/-- Payload getters make their three tests in order and answer the payload's bytes (R214). -/
def Obligations.PayGettersTestInOrder : Prop :=
  ∀ (s : State) (b : BufSel) (off : Word),
    payGetSpec b off.toNat 1 s (answersWith (leValue (memRead (s.buf b) (44 + off.toNat) 1)) [] 0 s)
        (exec (.getPayByte b off) s)
    ∧ payGetSpec b off.toNat 2 s (answersWith (leValue (memRead (s.buf b) (44 + off.toNat) 2)) [] 0 s)
        (exec (.getPayShort b off) s)
    ∧ payGetSpec b off.toNat 4 s (answersWith (leValue (memRead (s.buf b) (44 + off.toNat) 4)) [] 0 s)
        (exec (.getPayInt b off) s)
    ∧ payGetSpec b off.toNat 8 s (answersWith (leValue (memRead (s.buf b) (44 + off.toNat) 8)) [] 0 s)
        (exec (.getPayLong b off) s)
    ∧ payGetSpec b off.toNat 4 s (answersWith (leValue (memRead (s.buf b) (44 + off.toNat) 4)) [] 0 s)
        (exec (.getPayFloat b off) s)
    ∧ payGetSpec b off.toNat 8 s (answersWith (leValue (memRead (s.buf b) (44 + off.toNat) 8)) [] 0 s)
        (exec (.getPayDouble b off) s)
    ∧ (∀ len : Word, payGetSpec b off.toNat len.toNat s
        (answersWith 0 (memRead (s.buf b) (44 + off.toNat) len.toNat) len.toNat s) (exec (.getPayBytes b off len) s))

/-- A payload value set is got back (44_payload.md R236, 44_payload.md R213, 44_payload.md R214).
The spec marks R236 as derived from R213 and R214. -/
def Obligations.PaySetThenGet : Prop :=
  ∀ (s : State) (b : BufSel) (off : Word),
    (∀ v, payRoundTrip b off.toNat 1 s (exec (.setPayByte b off v) s) (exec (.getPayByte b off)) (answersWith v.toNat [] 0))
    ∧ (∀ v, payRoundTrip b off.toNat 2 s (exec (.setPayShort b off v) s) (exec (.getPayShort b off)) (answersWith v.toNat [] 0))
    ∧ (∀ v, payRoundTrip b off.toNat 4 s (exec (.setPayInt b off v) s) (exec (.getPayInt b off)) (answersWith v.toNat [] 0))
    ∧ (∀ v, payRoundTrip b off.toNat 8 s (exec (.setPayLong b off v) s) (exec (.getPayLong b off)) (answersWith v.toNat [] 0))
    ∧ (∀ v, payRoundTrip b off.toNat 4 s (exec (.setPayFloat b off v) s) (exec (.getPayFloat b off)) (answersWith v.toNat [] 0))
    ∧ (∀ v, payRoundTrip b off.toNat 8 s (exec (.setPayDouble b off v) s) (exec (.getPayDouble b off)) (answersWith v.toNat [] 0))
    ∧ (∀ len wbytes, wbytes.length = len.toNat → payRoundTrip b off.toNat len.toNat s
        (exec (.setPayBytes b off len wbytes) s) (exec (.getPayBytes b off len)) (answersWith 0 wbytes len.toNat))

/-- The commands that derive an offset fault BadLength, then BufferTooSmall (20_memory.md R64, 60_exceptions.md R365). -/
def Obligations.WindowFaultsInOrder : Prop :=
  ∀ (s : State) (b : BufSel) (wbytes : List Byte) (msgType : Word),
    windowFaultSpec b s (exec (.cksumCompute b) s)
    ∧ windowFaultSpec b s (exec (.cksumMatch b) s)
    ∧ windowFaultSpec b s (exec (.getCksum b) s)
    ∧ windowFaultSpec b s (exec (.setCksum b 16 wbytes) s)
    ∧ windowFaultSpec b s (exec (.setFooter b) s)
    ∧ windowFaultSpec b s (exec (.getFooter b) s)
    ∧ windowFaultSpec b s (exec (.checkFooter b) s)
    ∧ windowFaultSpec b s (exec (.finalize b msgType) s)

/-- CKSUM_COMPUTE writes the expected checksum at the derived offset and nothing else (R250, R252). -/
def Obligations.CksumComputeWritesExpected : Prop :=
  ∀ (s : State) (b : BufSel), windowFaultSpec b s (exec (.cksumCompute b) s)
    ∧ (windowPasses s b → (expectedOf (s.buf b)).length = 16
        ∧ writesOnly b (44 + (brOf (s.buf b) - 20)) (expectedOf (s.buf b)) s (exec (.cksumCompute b) s))

/-- CKSUM_MATCH answers whether the stored checksum is the expected one (R255). -/
def Obligations.CksumMatchCompares : Prop :=
  ∀ (s : State) (b : BufSel), windowFaultSpec b s (exec (.cksumMatch b) s)
    ∧ (windowPasses s b → exec (.cksumMatch b) s
        = answersWith (if memRead (s.buf b) (44 + (brOf (s.buf b) - 20)) 16 = expectedOf (s.buf b) then 1 else 0) [] 0 s)

/-- A computed checksum matches and a set footer checks, for every checksum type and every legal BR (45_checksum_footer.md R272, 45_checksum_footer.md R260, 45_checksum_footer.md R262). -/
def Obligations.ComputedChecksumAndFooterVerify : Prop :=
  ∀ (s : State) (b : BufSel), windowPasses s b →
    (∃ t, exec (.cksumCompute b) s = .next t ∧ exec (.cksumMatch b) t = answersWith 1 [] 0 t)
    ∧ ∃ t, exec (.setFooter b) s = .next t ∧ exec (.checkFooter b) t = answersWith 1 [] 0 t
        ∧ exec (.getFooter b) t = answersWith 0xC2C3C4C5 [] 0 t

/-- GET_CKSUM, GET_FOOTER and CHECK_FOOTER read at the derived offsets (R257, R262, R264). -/
def Obligations.ChecksumAndFooterReads : Prop :=
  ∀ (s : State) (b : BufSel),
    let ck := 44 + (brOf (s.buf b) - 20)
    let ft := 44 + (brOf (s.buf b) - 4)
    windowFaultSpec b s (exec (.getCksum b) s) ∧ windowFaultSpec b s (exec (.getFooter b) s)
    ∧ windowFaultSpec b s (exec (.checkFooter b) s)
    ∧ (windowPasses s b →
        exec (.getCksum b) s = answersWith 0 (memRead (s.buf b) ck 16) 16 s
        ∧ exec (.getFooter b) s
            = answersWith (leValue [s.byte b ft, s.byte b (ft + 1), s.byte b (ft + 2), s.byte b (ft + 3)]) [] 0 s
        ∧ exec (.checkFooter b) s
            = answersWith (if s.byte b ft = 0xC5 ∧ s.byte b (ft + 1) = 0xC4 ∧ s.byte b (ft + 2) = 0xC3
                ∧ s.byte b (ft + 3) = 0xC2 then 1 else 0) [] 0 s)

/-- SET_CKSUM takes exactly sixteen bytes and writes them unchecked (R258). -/
def Obligations.SetCksumWritesBytes : Prop :=
  ∀ (s : State) (b : BufSel) (len : Word) (wbytes : List Byte), wbytes.length = len.toNat →
    (len.toNat ≠ 16 → exec (.setCksum b len wbytes) s = faultsWith 4 len.toNat s)
    ∧ (len.toNat = 16 → windowFaultSpec b s (exec (.setCksum b len wbytes) s)
        ∧ (windowPasses s b →
            writesOnly b (44 + (brOf (s.buf b) - 20)) wbytes s (exec (.setCksum b len wbytes) s)))

/-- SET_FOOTER writes C5 C4 C3 C2 at the tail of the window and nothing else (R260). -/
def Obligations.SetFooterWritesPattern : Prop :=
  ∀ (s : State) (b : BufSel), windowFaultSpec b s (exec (.setFooter b) s)
    ∧ (windowPasses s b →
        writesOnly b (44 + (brOf (s.buf b) - 4)) [0xC5, 0xC4, 0xC3, 0xC2] s (exec (.setFooter b) s))

/-- MSG_SIZE answers 44 + BR, never wrapped, never checked (R65, R270). -/
def Obligations.MsgSizeNeverWraps : Prop :=
  ∀ (s : State) (b : BufSel), exec (.msgSize b) s = answersWith (44 + brOf (s.buf b)) [] 0 s
    ∧ (BitVec.ofNat 64 (44 + brOf (s.buf b))).toNat = 44 + brOf (s.buf b)

/-- The MD5 of the model gives the check values (45_checksum_footer.md R246).
The spec supplies the values from general knowledge (log entry 12). -/
def Obligations.Md5CheckValues : Prop :=
  md5 [] = [0xD4, 0x1D, 0x8C, 0xD9, 0x8F, 0x00, 0xB2, 0x04, 0xE9, 0x80, 0x09, 0x98, 0xEC, 0xF8, 0x42, 0x7E]
    ∧ md5 [0x61] = [0x0C, 0xC1, 0x75, 0xB9, 0xC0, 0xF1, 0xB6, 0xA8, 0x31, 0xC3, 0x99, 0xE2, 0x69, 0x77, 0x26, 0x61]
    ∧ md5 [0x61, 0x62, 0x63]
        = [0x90, 0x01, 0x50, 0x98, 0x3C, 0xD2, 0x4F, 0xB0, 0xD6, 0x96, 0x3F, 0x7D, 0x28, 0xE1, 0x7F, 0x72]
    ∧ md5 [0x6D, 0x65, 0x73, 0x73, 0x61, 0x67, 0x65, 0x20, 0x64, 0x69, 0x67, 0x65, 0x73, 0x74]
        = [0xF9, 0x6B, 0x69, 0x7D, 0x7C, 0xB7, 0x93, 0x8D, 0x52, 0x5A, 0x2F, 0x31, 0xAA, 0xF1, 0x61, 0xD0]

/-- MD5 pads with the least number of zero bytes and the 64-bit bit length, and its digest is sixteen bytes (45_checksum_footer.md R242, 45_checksum_footer.md R245). -/
def Obligations.Md5PaddingAndLength : Prop :=
  ∀ m : List Byte,
    (∃ z, z < 64 ∧ (m.length + 1 + z) % 64 = 56
      ∧ md5Pad m = m ++ [0x80] ++ List.replicate z 0 ++ sliceBytes 8 (BitVec.ofNat 64 (8 * m.length)))
    ∧ (md5Pad m).length % 64 = 0 ∧ (md5 m).length = 16

/-- PUT_AUTO sends up to T bytes to the immediate data and more to the payload (R285). -/
def Obligations.PutAutoChoosesPath : Prop :=
  ∀ (s : State) (b : BufSel) (len : Word) (wbytes : List Byte) (T : Byte), wbytes.length = len.toNat →
    (16 < T.toNat → exec (.putAuto b len wbytes T) s = faultsWith 4 T.toNat s)
    ∧ (T.toNat ≤ 16 → len.toNat ≤ T.toNat → ∃ t, exec (.putAuto b len wbytes T) s = .next t
        ∧ sameOutside b s t ∧ completed 0 len.toNat t
        ∧ (∀ i, (h : i < wbytes.length) → t.byte b (24 + i) = wbytes[i]) ∧ (t.byte b 23).toNat = len.toNat
        ∧ ∀ x, x ≠ 23 → (x < 24 ∨ 24 + len.toNat ≤ x) → t.byte b x = s.byte b x)
    ∧ (T.toNat ≤ 16 → T.toNat < len.toNat → 44 + len.toNat ≤ s.cap b →
        ∃ t, exec (.putAuto b len wbytes T) s = .next t
        ∧ sameOutside b s t ∧ completed 1 len.toNat t
        ∧ (∀ i, (h : i < wbytes.length) → t.byte b (44 + i) = wbytes[i]) ∧ brOf (t.buf b) = len.toNat + 20
        ∧ ∀ x, (x < 40 ∨ 44 + len.toNat ≤ x) → t.byte b x = s.byte b x)
    ∧ (T.toNat ≤ 16 → T.toNat < len.toNat → s.cap b < 44 + len.toNat →
        exec (.putAuto b len wbytes T) s = faultsWith 1 (44 + len.toNat) s)

/-- GET_AUTO answers the immediate data in use if there is any, else the whole payload (R288). -/
def Obligations.GetAutoPrefersImmediate : Prop :=
  ∀ (s : State) (b : BufSel), autoFaultSpec b s (exec (.getAuto b) s)
    ∧ ∀ path bytes, autoSelected b s path bytes → exec (.getAuto b) s = answersWith path bytes bytes.length s

/-- GET_STRING answers the bytes GET_AUTO selects up to the first one below the threshold (R290). -/
def Obligations.GetStringStopsAtLowByte : Prop :=
  ∀ (s : State) (b : BufSel) (minPrint : Byte), autoFaultSpec b s (exec (.getString b minPrint) s)
    ∧ ∀ path bytes, autoSelected b s path bytes →
        ∃ k, k ≤ bytes.length ∧ exec (.getString b minPrint) s = answersWith path (bytes.take k) k s
          ∧ (∀ i, (h : i < bytes.length) → i < k → minPrint.toNat ≤ bytes[i].toNat)
          ∧ ∀ h : k < bytes.length, bytes[k].toNat < minPrint.toNat

/-- After INIT, what PUT_AUTO stores GET_AUTO returns, by either path (46_marshalling.md R299). -/
def Obligations.AutoRoundTrip : Prop :=
  ∀ (s : State) (b : BufSel) (len : Word) (wbytes : List Byte) (T : Byte),
    wbytes.length = len.toNat → 1 ≤ len.toNat → T.toNat ≤ 16 → 44 + len.toNat ≤ s.cap b →
    ∃ u v, exec (.init b) s = .next u ∧ exec (.putAuto b len wbytes T) u = .next v
      ∧ exec (.getAuto b) v = answersWith (if len.toNat ≤ T.toNat then 0 else 1) wbytes len.toNat v
      ∧ (len.toNat ≤ T.toNat → (v.byte b 23).toNat = len.toNat ∧ brOf (v.buf b) = 20)
      ∧ (T.toNat < len.toNat → (v.byte b 23).toNat = 0 ∧ brOf (v.buf b) = len.toNat + 20)

/-- FINALIZE writes the type, then the checksum that covers it, then the footer, and nothing else (R320). -/
def Obligations.FinalizeWritesThreeSpans : Prop :=
  ∀ (s : State) (b : BufSel) (msgType : Word), windowFaultSpec b s (exec (.finalize b msgType) s)
    ∧ (windowPasses s b → ∃ t, exec (.finalize b msgType) s = .next t ∧ completed 0 0 t ∧ sameOutside b s t
        ∧ brOf (t.buf b) = brOf (s.buf b)
        ∧ memRead (t.buf b) 8 4 = sliceBytes 4 msgType
        ∧ memRead (t.buf b) (44 + (brOf (s.buf b) - 20)) 16 = expectedOf (t.buf b)
        ∧ memRead (t.buf b) (44 + (brOf (s.buf b) - 4)) 4 = [0xC5, 0xC4, 0xC3, 0xC2]
        ∧ ∀ x, (x < 8 ∨ 12 ≤ x) → (x < 44 + (brOf (s.buf b) - 20) ∨ 44 + brOf (s.buf b) ≤ x) →
            t.byte b x = s.byte b x)

/-- FINALIZE has the effect of SET_MSGTYPE, CKSUM_COMPUTE, SET_FOOTER (30_encoding.md R103, 47_transaction.md R320). -/
def Obligations.FinalizeEqualsExpansion : Prop :=
  ∀ (s : State) (b : BufSel) (msgType : Word), windowPasses s b →
    execSeq (finalizeExpansion b msgType) s = exec (.finalize b msgType) s
    ∧ ∃ t, exec (.finalize b msgType) s = .next t

/-- HDR_PARSE reports BR and the four header judgements, and never faults (R323). -/
def Obligations.HdrParseReports : Prop :=
  ∀ (s : State) (b : BufSel), ∃ d : Dword,
    exec (.hdrParse b) s
      = .next { s with response := some { status := 0, rdata := d, rbytes := [], cnt := BitVec.ofNat 32 (brOf (s.buf b)), xres := 0 } }
    ∧ (d.extractLsb' 0 32).toNat = brOf (s.buf b)
    ∧ (d.getLsbD 32 = true ↔ s.byte b 0 = 0xC1 ∧ s.byte b 1 = 0xC0)
    ∧ (d.getLsbD 33 = true ↔ leValue [s.byte b 2, s.byte b 3] = 0x1100)
    ∧ (d.getLsbD 34 = true ↔ 20 ≤ brOf (s.buf b))
    ∧ (d.getLsbD 35 = true ↔ 44 + brOf (s.buf b) ≤ s.cap b)
    ∧ d.extractLsb' 36 28 = 0

/-- RSP_CLASSIFY reports NACK, exception, msgOk and the error number, and never faults (R326).
The default positions are R86's (log entry 7). -/
def Obligations.RspClassifyReports : Prop :=
  ∀ (s : State) (b : BufSel), ∃ d : Dword,
    let f : Half := s.byte b 5 ++ s.byte b 4
    exec (.rspClassify b) s
      = .next { s with response := some { status := 0, rdata := d, rbytes := [], cnt := 0, xres := 0 } }
    ∧ d.getLsbD 0 = f.getLsbD s.params.flags.nack ∧ d.getLsbD 1 = f.getLsbD s.params.flags.deviceException
    ∧ (s.params.flags = FlagPositions.default →
        (d.getLsbD 0 = true ↔ f &&& 0x0008 ≠ 0) ∧ (d.getLsbD 1 = true ↔ f &&& 0x0010 ≠ 0))
    ∧ (d.getLsbD 2 = true ↔ d.getLsbD 0 = false ∧ d.getLsbD 1 = false)
    ∧ d.extractLsb' 3 13 = 0
    ∧ d.extractLsb' 16 16 = s.byte b 7 ++ s.byte b 6
    ∧ d.extractLsb' 32 32 = 0

/-- XACT is not admitted with a decode opcode that writes or is undefined, nor when the request window fails (47_transaction.md R331, 60_exceptions.md R365). -/
def Obligations.XactAdmissionFaults : Prop :=
  ∀ (s : State) (msgType : Word) (always : Bool) (decOp decArg : Byte) (off len : Word),
    (¬ admitted decOp → exec (.xact msgType always decOp decArg off len) s = faultsWith 5 0 s)
    ∧ (admitted decOp → windowFaultSpec .req s (exec (.xact msgType always decOp decArg off len) s))

/-- An admitted XACT completes with status OK, and its result and xstate agree (47_transaction.md R331, 47_transaction.md R340, 47_transaction.md R341).
The script of answers is the model's own (log entry 5), and so is the silent answer (log entry 9). -/
def Obligations.XactEndsSuccessOrFailed : Prop :=
  ∀ (s : State) (msgType : Word) (always : Bool) (decOp decArg : Byte) (off len : Word),
    admitted decOp → windowPasses s .req → (∀ a ∈ s.answers.take 3, a ≠ .silent) →
    ∃ t r, exec (.xact msgType always decOp decArg off len) s = .next t ∧ t.response = some r ∧ r.status = 0
      ∧ ((t.xstate = .success ∧ (r.xres.extractLsb' 12 3).toNat = 6 ∧ (r.xres.extractLsb' 0 4).toNat = 0)
          ∨ (t.xstate = .failed ∧ (r.xres.extractLsb' 12 3).toNat = 7
              ∧ 1 ≤ (r.xres.extractLsb' 0 4).toNat ∧ (r.xres.extractLsb' 0 4).toNat ≤ 4))
      ∧ r.xres.extractLsb' 40 8 = 0

/-- A failed send ends the transaction as an IO failure at step 3 with RSP untouched (47_transaction.md R332, 47_transaction.md R333, 47_transaction.md R342).
The script of answers and the history of calls are the model's own (log entry 5). -/
def Obligations.XactSendFailureLeavesResponseAlone : Prop :=
  ∀ (s : State) (msgType : Word) (always : Bool) (decOp decArg : Byte) (off len : Word)
    (st : TransportStatus) (bytes : List Byte) (rest : List TransportAnswer),
    admitted decOp → windowPasses s .req → s.answers = .answered st bytes :: rest → st ≠ .success →
    ∃ t, exec (.xact msgType always decOp decArg off len) s = .next t ∧ transacted msgType [] rest s t
      ∧ t.rsp = s.rsp ∧ t.xstate = .failed ∧ endsWith (xresWord 1 (statusCode st).toNat 3 7 0 0 0) t

/-- When no response is awaited XACT succeeds at step 4 and leaves RSP as it was (47_transaction.md R334, 70_reset_and_hazards.md R416).
The script of answers and the history of calls are the model's own (log entry 5). -/
def Obligations.XactWithoutResponse : Prop :=
  ∀ (s : State) (msgType : Word) (always : Bool) (decOp decArg : Byte) (off len : Word)
    (bytes : List Byte) (rest : List TransportAnswer),
    admitted decOp → windowPasses s .req → s.answers = .answered .success bytes :: rest →
    ¬ awaitsResponse always s →
    ∃ t, exec (.xact msgType always decOp decArg off len) s = .next t ∧ transacted msgType [] rest s t
      ∧ t.rsp = s.rsp ∧ t.xstate = .success ∧ endsWith (xresWord 0 0 4 6 0 0 0) t

/-- A failed or short header receive ends the transaction at step 5 (47_transaction.md R335, 47_transaction.md R343, 60_exceptions.md R370).
The script of answers and the history of calls are the model's own (log entry 5); the count is the length of the answer (log entry 8). -/
def Obligations.XactHeaderFailure : Prop :=
  ∀ (s : State) (msgType : Word) (always : Bool) (decOp decArg : Byte) (off len : Word)
    (bytes h : List Byte) (st : TransportStatus) (rest : List TransportAnswer),
    admitted decOp → windowPasses s .req →
    s.answers = .answered .success bytes :: .answered st h :: rest → awaitsResponse always s →
    (st ≠ .success ∨ h.length < 44) →
    ∃ t, exec (.xact msgType always decOp decArg off len) s = .next t ∧ transacted msgType [.receiveBytes 0 44] rest s t
      ∧ (∀ a, 44 ≤ a → t.byte .rsp a = clearedByte s a) ∧ t.xstate = .failed
      ∧ endsWith (xresWord 1 (if st = .success then 6 else (statusCode st).toNat) 5 7 0 0 0) t

/-- A header that claims too few or too many bytes, or a failed or short remainder, ends the transaction at step 6 (47_transaction.md R336, 47_transaction.md R343, 60_exceptions.md R370).
The script of answers and the history of calls are the model's own (log entry 5); the count is the length of the answer (log entry 8). -/
def Obligations.XactRemainderFailure : Prop :=
  ∀ (s : State) (msgType : Word) (always : Bool) (decOp decArg : Byte) (off len : Word)
    (bytes h : List Byte) (rest : List TransportAnswer),
    admitted decOp → windowPasses s .req →
    s.answers = .answered .success bytes :: .answered .success h :: rest → awaitsResponse always s →
    44 ≤ h.length →
    (headerBr h < 20 ∨ s.cap .rsp < 44 + headerBr h →
      ∃ t, exec (.xact msgType always decOp decArg off len) s = .next t ∧ transacted msgType [.receiveBytes 0 44] rest s t
        ∧ (∀ a, t.byte .rsp a = if a < 44 then h.getD a 0 else clearedByte s a) ∧ t.xstate = .failed
        ∧ endsWith (xresWord 1 (if headerBr h < 20 then 6 else 4) 6 7 0 0 0) t)
    ∧ (20 ≤ headerBr h → 44 + headerBr h ≤ s.cap .rsp →
        ∀ (st : TransportStatus) (p : List Byte) (rest' : List TransportAnswer),
        rest = .answered st p :: rest' → (st ≠ .success ∨ p.length < headerBr h) →
        ∃ t, exec (.xact msgType always decOp decArg off len) s = .next t
          ∧ transacted msgType [.receiveBytes 44 (headerBr h), .receiveBytes 0 44] rest' s t
          ∧ (∀ a, a < 44 → t.byte .rsp a = h.getD a 0)
          ∧ (∀ a, 44 + headerBr h ≤ a → t.byte .rsp a = clearedByte s a) ∧ t.xstate = .failed
          ∧ endsWith (xresWord 1 (if st = .success then 6 else (statusCode st).toNat) 6 7 0 0 0) t)

/-- A whole response lands in RSP and is judged by footer, header, flags and decode command, in that order (47_transaction.md R337, 47_transaction.md R338, 47_transaction.md R339, 47_transaction.md R340, 60_exceptions.md R370).
The script of answers and the history of calls are the model's own (log entry 5); the count is the length of the answer, cut at what was asked (log entry 8); after a decode fault rdata is 0 (log entry 14). -/
def Obligations.XactDeliversResponse : Prop :=
  ∀ (s : State) (msgType : Word) (always : Bool) (decOp decArg : Byte) (off len : Word)
    (bytes h p : List Byte) (rest : List TransportAnswer),
    admitted decOp → windowPasses s .req →
    s.answers = .answered .success bytes :: .answered .success h :: .answered .success p :: rest →
    awaitsResponse always s →
    44 ≤ h.length → 20 ≤ headerBr h → 44 + headerBr h ≤ s.cap .rsp → headerBr h ≤ p.length →
    ∃ t, exec (.xact msgType always decOp decArg off len) s = .next t
      ∧ transacted msgType [.receiveBytes 44 (headerBr h), .receiveBytes 0 44] rest s t
      ∧ (∀ a, t.byte .rsp a = if a < 44 then h.getD a 0 else if a < 44 + headerBr h then p.getD (a - 44) 0
          else clearedByte s a)
      ∧ if memRead t.rsp (44 + (headerBr h - 4)) 4 ≠ [0xC5, 0xC4, 0xC3, 0xC2]
            ∨ (s.params.xactStrictHeader = true
                ∧ (memRead t.rsp 0 2 ≠ [0xC1, 0xC0] ∨ leValue (memRead t.rsp 2 2) ≠ 0x1100)) then
          t.xstate = .failed ∧ endsWith (xresWord 3 0 6 7 1 0 0) t
        else if nackSet s.params.flags t.rsp = true ∨ exceptionSet s.params.flags t.rsp = true then
          t.xstate = .failed ∧ endsWith (xresWord 2 0 7 7 1 (leValue (memRead t.rsp 6 2)) 0) t
        else if decOp = 0 then
          t.xstate = .success ∧ endsWith (xresWord 0 0 8 6 1 0 0) t
        else
          ∃ i r, decode (decodeStepCommand decOp decArg off len) = .ok i
            ∧ exec i t = .next { t with response := some r }
            ∧ (r.status = 0 → t.xstate = .success
                ∧ t.response = some { r with xres := xresWord 0 0 8 6 1 0 0 })
            ∧ (r.status ≠ 0 → t.xstate = .failed ∧ endsWith (xresWord 4 0 8 7 1 0 r.status.toNat) t)

/-- XACT makes at most one send and two receives, in that order, of the bytes and counts the rules name, and
writes outside the received spans only what the clear of step 5 writes (47_transaction.md R311, 47_transaction.md R312, 47_transaction.md R342, 60_exceptions.md R373).
It holds for every answer, those after the script has run out included; the history of calls is the model's own
(log entry 5). -/
def Obligations.XactCallsTransportInOrder : Prop :=
  ∀ (s t : State) (msgType : Word) (always : Bool) (decOp decArg : Byte) (off len : Word),
    exec (.xact msgType always decOp decArg off len) s = .next t →
    (¬ (admitted decOp ∧ windowPasses s .req) ∧ t = { s with response := t.response })
    ∨ (admitted decOp ∧ windowPasses s .req ∧ ∃ u, exec (.finalize .req msgType) s = .next u ∧ t.req = u.req
        ∧ let send := TransportCall.sendBytes (memRead u.req 0 (44 + brOf u.req))
          (t.calls = send :: s.calls ∧ t.rsp = s.rsp)
          ∨ (t.calls = .receiveBytes 0 44 :: send :: s.calls ∧ ∀ a, 44 ≤ a → t.byte .rsp a = clearedByte s a)
          ∨ (t.calls = .receiveBytes 44 (brOf t.rsp) :: .receiveBytes 0 44 :: send :: s.calls
              ∧ 20 ≤ brOf t.rsp ∧ 44 + brOf t.rsp ≤ s.cap .rsp
              ∧ ∀ a, 44 + brOf t.rsp ≤ a → t.byte .rsp a = clearedByte s a))

/-- The decode command inside XACT is the read command of that opcode on RSP (47_transaction.md R331, 47_transaction.md R339). -/
def Obligations.DecodeStepIsTheCommand : Prop :=
  ∀ (s : State) (decOp decArg : Byte) (off len : Word), admitted decOp → decOp ≠ 0 →
    ∃ i, decode (decodeStepCommand decOp decArg off len) = .ok i ∧ classOf i = (.read, some .rsp)
      ∧ exec i s = answerQuery s (runDecode decOp decArg off len s)

/-- Each stage of XACT moves xstate along a row of the state table (47_transaction.md R341, 47_transaction.md R332, 47_transaction.md R334).
The stages are the model's own division of the steps (log entry 11). -/
def Obligations.SequencerFollowsTable : Prop :=
  ∀ (s t : State) (x : XResult) (r : Results) (msgType : Word) (always : Bool) (decOp decArg : Byte) (off len : Word),
    (xactBegin s = .goOn t → t.xstate = .idle)
    ∧ (xactFinalize msgType s = .goOn t → t.xstate = .requestFinalized)
    ∧ (xactSend s = .goOn t → t.xstate = .sent) ∧ (xactSend s = .ended t x r → t.xstate = .failed)
    ∧ (s.xstate = .sent → xactAwait always s = .goOn t → t.xstate = .sent)
    ∧ (xactAwait always s = .ended t x r → t.xstate = .success)
    ∧ (xactAwaitHeader s = .goOn t → t.xstate = .awaitingHeader)
    ∧ (xactHeader s = .goOn t → t.xstate = .awaitingRemainder) ∧ (xactHeader s = .ended t x r → t.xstate = .failed)
    ∧ (s.xstate = .awaitingRemainder →
        (xactRemainder s = .goOn t → t.xstate = .awaitingRemainder)
        ∧ (xactValidate s = .goOn t → t.xstate = .awaitingRemainder)
        ∧ (xactClassify s = .goOn t → t.xstate = .awaitingRemainder))
    ∧ (xactRemainder s = .ended t x r → t.xstate = .failed)
    ∧ (xactValidate s = .ended t x r → t.xstate = .failed)
    ∧ (xactClassify s = .ended t x r → t.xstate = .failed)
    ∧ (xactDecode decOp decArg off len s = .ended t x r → t.xstate = .success ∨ t.xstate = .failed)
    ∧ (∀ u, runXact msgType always decOp decArg off len u ≠ .goOn t)

/-- The status, state and error codes are those the spec lists (R91, R92, R93, R94).
The texts are R91's words and R92's placeholders (log entry 17). -/
def Obligations.CodesAndErrorNames : Prop :=
  [TransportStatus.success, .pending, .portError, .nullBuffer, .outOfRange, .timeout, .insufficientData, .pipeError,
        .otherException].map (fun x => (statusCode x).toNat) = [0, 1, 2, 3, 4, 5, 6, 7, 8]
    ∧ [XState.idle, .requestFinalized, .sent, .awaitingHeader, .awaitingRemainder, .decoded, .success, .failed].map
        (fun x => (xstateCode x).toNat) = [0, 1, 2, 3, 4, 5, 6, 7]
    ∧ [0, 1, 2, 3, 4, 5, 6, 7, 8, 9, 10, 11, 12, 13, 14, 15].map errName
        = ["success", "bad protocol", "unknown message", "bad checksum", "message too large", "payload mismatch",
           "payload invalid", "device-not-ready", "unknown checksum type", "unexpected reset", "too many buses",
           "out of memory", "nonexistent info requested", "internal error", "malformed end", "scan interrupted"]
    ∧ ∀ code : Half,
        (100 ≤ code.toNat → code.toNat ≤ 104 → errName code = "firmware-reprogramming-" ++ toString code.toNat)
        ∧ (16 ≤ code.toNat → (code.toNat < 100 ∨ 104 < code.toNat) → errName code = "unknown-" ++ toString code.toNat)

/-- The pseudo-command SET_ACK_REQUEST sets or clears one flag bit and keeps the rest (30_encoding.md R103, 30_encoding.md R86, 42_header_fields.md R162). -/
def Obligations.SetAckRequestChangesOneFlag : Prop :=
  ∀ (s : State) (b : BufSel) (v : Bool), ∃ t, setAckRequest b v s = .next t
    ∧ ackRequested s.params.flags (t.buf b) = v
    ∧ (∀ pos : Fin 16, pos ≠ s.params.flags.ackRequest → flagAt (t.buf b) pos = flagAt (s.buf b) pos)
    ∧ ∀ x, (x < 4 ∨ 6 ≤ x) → t.byte b x = s.byte b x
end

