-- ==== Sys2Proof/Laws/Memory.lean ====
section
/-! SUPPORT. The laws of the buffers: reading after writing, and the canonical form. -/

namespace Sys2Proof.Machine

@[simp] theorem readByte_nil (a : Nat) : readByte [] a = unlistedByte := rfl

theorem readByte_cons (c : Host.Cell) (m : Memory) (a : Nat) :
    readByte (c :: m) a = if c.1 = a then c.2 else readByte m a := rfl

@[simp] theorem readByte_zeroed (m : Memory) (a : Nat) : readByte (zeroed m) a = 0 := rfl

/-! ### One byte -/

theorem readByte_of_absent {m : Memory} {a : Nat} (h : ∀ c ∈ m, c.1 ≠ a) :
    readByte m a = unlistedByte := by
  induction m with
  | nil => rfl
  | cons c m ih =>
    rw [readByte_cons, if_neg (h c (by simp)), ih fun d hd => h d (by simp [hd])]

theorem eraseAt_absent (m : Memory) (a : Nat) : ∀ c ∈ eraseAt m a, c.1 ≠ a := by
  simp [eraseAt]

theorem readByte_eraseAt_ne (m : Memory) {a x : Nat} (h : x ≠ a) :
    readByte (eraseAt m a) x = readByte m x := by
  induction m with
  | nil => rfl
  | cons c m ih =>
    by_cases hc : c.1 = a
    · have : eraseAt (c :: m) a = eraseAt m a := by simp [eraseAt, hc]
      rw [this, ih, readByte_cons, if_neg (by omega)]
    · have : eraseAt (c :: m) a = c :: eraseAt m a := by simp [eraseAt, hc]
      rw [this, readByte_cons, readByte_cons, ih]

theorem readByte_insertAt_self {m : Memory} {a : Nat} (v : Byte) (h : ∀ c ∈ m, c.1 ≠ a) :
    readByte (insertAt m a v) a = v := by
  induction m with
  | nil => simp [insertAt, readByte_cons]
  | cons c m ih =>
    simp only [insertAt]
    split
    · simp [readByte_cons]
    · rw [readByte_cons, if_neg (h c (by simp)), ih fun d hd => h d (by simp [hd])]

theorem readByte_insertAt_ne (m : Memory) {a x : Nat} (v : Byte) (h : x ≠ a) :
    readByte (insertAt m a v) x = readByte m x := by
  induction m with
  | nil => simp [insertAt, readByte_cons, Ne.symm h]
  | cons c m ih =>
    simp only [insertAt]
    split
    · simp [readByte_cons, Ne.symm h]
    · rw [readByte_cons, readByte_cons, ih]

/-- A read after a write gives the value written at the same address, and what was there elsewhere. -/
theorem readByte_writeByte (m : Memory) (a x : Nat) (v : Byte) :
    readByte (writeByte m a v) x = if x = a then v else readByte m x := by
  unfold writeByte
  by_cases hv : v = unlistedByte
  · rw [if_pos hv]
    split
    · next h => rw [h, readByte_of_absent (eraseAt_absent m a), hv]
    · next h => exact readByte_eraseAt_ne m h
  · rw [if_neg hv]
    split
    · next h => rw [h, readByte_insertAt_self v (eraseAt_absent m a)]
    · next h => rw [readByte_insertAt_ne _ v h, readByte_eraseAt_ne m h]

/-! ### Spans -/

@[simp] theorem memRead_length (m : Memory) (a n : Nat) : (memRead m a n).length = n := by
  induction n generalizing a with
  | zero => rfl
  | succ n ih => simp [memRead, ih]

@[simp] theorem memRead_getElem (m : Memory) (a n i : Nat) (h : i < (memRead m a n).length) :
    (memRead m a n)[i] = readByte m (a + i) := by
  induction n generalizing a i with
  | zero => simp [memRead] at h
  | succ n ih =>
    cases i with
    | zero => simp [memRead]
    | succ i => simp [memRead, ih, Nat.add_comm, Nat.add_left_comm]

theorem memRead_congr {m m' : Memory} {a n : Nat}
    (h : ∀ i, i < n → readByte m (a + i) = readByte m' (a + i)) : memRead m a n = memRead m' a n := by
  refine List.ext_getElem (by simp) fun i hi _ => ?_
  simpa using h i (by simpa using hi)

/-- Outside the span a write leaves every byte alone. -/
theorem readByte_memWrite_out (m : Memory) (a x : Nat) (s : List Byte)
    (h : x < a ∨ a + s.length ≤ x) : readByte (memWrite m a s) x = readByte m x := by
  induction s generalizing m a with
  | nil => rfl
  | cons v s ih =>
    simp only [List.length_cons] at h
    rw [memWrite, ih _ _ (by omega), readByte_writeByte, if_neg (by omega)]

/-- Inside the span a write leaves the bytes given. -/
theorem readByte_memWrite_in (m : Memory) (a i : Nat) (s : List Byte) (h : i < s.length) :
    readByte (memWrite m a s) (a + i) = s[i] := by
  induction s generalizing m a i with
  | nil => simp at h
  | cons v s ih =>
    rw [memWrite]
    cases i with
    | zero => rw [readByte_memWrite_out _ _ _ _ (by omega), readByte_writeByte, if_pos (by omega)]; simp
    | succ i =>
      have := ih (writeByte m a v) (a + 1) i (by simpa using h)
      rw [show a + (i + 1) = a + 1 + i by omega, this]; simp

/-- What a byte reads as after a write of a span, wherever it is. -/
theorem readByte_memWrite (m : Memory) (a x : Nat) (s : List Byte) :
    readByte (memWrite m a s) x
      = if h : a ≤ x ∧ x - a < s.length then s[x - a]'h.2 else readByte m x := by
  split
  · next h =>
    have := readByte_memWrite_in m a (x - a) s h.2
    rwa [show a + (x - a) = x by omega] at this
  · next h => exact readByte_memWrite_out m a x s (by omega)

/-- Reading a span back. -/
theorem memRead_memWrite_same (m : Memory) (a : Nat) (s : List Byte) :
    memRead (memWrite m a s) a s.length = s := by
  refine List.ext_getElem (by simp) fun i hi hi' => ?_
  rw [memRead_getElem, readByte_memWrite_in m a i s hi']

/-- Reading a span that a write does not touch. -/
theorem memRead_memWrite_disjoint (m : Memory) (a b n : Nat) (s : List Byte)
    (h : b + n ≤ a ∨ a + s.length ≤ b) : memRead (memWrite m a s) b n = memRead m b n :=
  memRead_congr fun i hi => readByte_memWrite_out m a (b + i) s (by omega)

/-- Reading part of the span a write has just made. -/
theorem memRead_memWrite_inside (m : Memory) (a i n : Nat) (s : List Byte) (h : i + n ≤ s.length) :
    memRead (memWrite m a s) (a + i) n = (s.drop i).take n := by
  refine List.ext_getElem (by simp; omega) fun j hj hj' => ?_
  have hj2 : j < n := by simpa using hj
  rw [memRead_getElem, Nat.add_assoc, readByte_memWrite_in m a (i + j) s (by omega)]
  simp

/-! ### The canonical form -/

theorem wf_nil : Memory.wf [] := by simp [Memory.wf]

theorem wf_zeroed (m : Memory) : (zeroed m).wf := wf_nil

theorem within_zeroed (m : Memory) (cap : Nat) : (zeroed m).within cap := by simp [zeroed, Memory.within]

theorem wf_eraseAt {m : Memory} (h : m.wf) (a : Nat) : (eraseAt m a).wf :=
  ⟨h.1.filter _, fun c hc => h.2 c (List.mem_of_mem_filter hc)⟩

theorem mem_insertAt {m : Memory} {a : Nat} {v : Byte} {c : Host.Cell} (h : c ∈ insertAt m a v) :
    c = (a, v) ∨ c ∈ m := by
  induction m with
  | nil => simpa [insertAt] using h
  | cons d m ih =>
    simp only [insertAt] at h
    split at h
    · simpa using h
    · rcases List.mem_cons.mp h with rfl | h
      · exact .inr (by simp)
      · rcases ih h with h | h
        · exact .inl h
        · exact .inr (by simp [h])

theorem wf_insertAt {m : Memory} {a : Nat} {v : Byte} (h : m.wf) (ha : ∀ c ∈ m, c.1 ≠ a)
    (hv : v ≠ unlistedByte) : (insertAt m a v).wf := by
  refine ⟨?_, fun c hc => (mem_insertAt hc).elim (fun e => e ▸ hv) (h.2 c)⟩
  have hp := h.1
  clear h
  induction m with
  | nil => simp [insertAt]
  | cons d m ih =>
    have hd := List.pairwise_cons.mp hp
    simp only [insertAt]
    split
    · next hlt =>
      refine List.pairwise_cons.mpr ⟨fun c hc => ?_, hp⟩
      rcases List.mem_cons.mp hc with rfl | hc
      · exact hlt
      · exact Nat.lt_trans hlt (hd.1 c hc)
    · next hlt =>
      refine List.pairwise_cons.mpr ⟨fun c hc => ?_, ih (fun c hc => ha c (by simp [hc])) hd.2⟩
      have hne := ha d (by simp)
      rcases mem_insertAt hc with rfl | hc
      · show d.1 < a; omega
      · exact hd.1 c hc

/-- One byte written keeps the canonical form. -/
theorem wf_writeByte {m : Memory} (h : m.wf) (a : Nat) (v : Byte) : (writeByte m a v).wf := by
  unfold writeByte
  split
  · exact wf_eraseAt h a
  · next hv => exact wf_insertAt (wf_eraseAt h a) (eraseAt_absent m a) hv

/-- A span written keeps the canonical form. -/
theorem wf_memWrite {m : Memory} (h : m.wf) (a : Nat) (s : List Byte) : (memWrite m a s).wf := by
  induction s generalizing m a with
  | nil => exact h
  | cons v s ih => exact ih (wf_writeByte h a v) (a + 1)

theorem within_writeByte {m : Memory} {cap a : Nat} (h : m.within cap) (ha : a < cap) (v : Byte) :
    (writeByte m a v).within cap := by
  intro c hc
  unfold writeByte at hc
  split at hc
  · exact h c (List.mem_of_mem_filter hc)
  · rcases mem_insertAt hc with rfl | hc
    · exact ha
    · exact h c (List.mem_of_mem_filter hc)

/-- A span that ends within the capacity keeps the buffer within it. -/
theorem within_memWrite {m : Memory} {cap a : Nat} {s : List Byte} (h : m.within cap)
    (ha : s = [] ∨ a + s.length ≤ cap) : (memWrite m a s).within cap := by
  induction s generalizing m a with
  | nil => exact h
  | cons v s ih =>
    simp only [List.length_cons, reduceCtorEq, false_or] at ha
    exact ih (within_writeByte h (by omega) v) (.inr (by omega))

/-- Canonical buffers that read alike are equal: equal contents are equal data. -/
theorem eq_of_readByte_eq {m n : Memory} (hm : m.wf) (hn : n.wf)
    (h : ∀ a, readByte m a = readByte n a) : m = n := by
  induction m generalizing n with
  | nil =>
    cases n with
    | nil => rfl
    | cons d n =>
      have := h d.1
      simp only [readByte_nil, readByte_cons, if_true] at this
      exact absurd this.symm (hn.2 d (by simp))
  | cons c m ih =>
    cases n with
    | nil =>
      have := h c.1
      simp only [readByte_nil, readByte_cons, if_true] at this
      exact absurd this (hm.2 c (by simp))
    | cons d n =>
      have pm := List.pairwise_cons.mp hm.1
      have pn := List.pairwise_cons.mp hn.1
      have hkey : c.1 = d.1 := by
        rcases Nat.lt_trichotomy c.1 d.1 with hlt | heq | hlt
        · have := h c.1
          rw [readByte_cons, if_pos rfl, readByte_cons, if_neg (by omega),
            readByte_of_absent fun e he => by have := pn.1 e he; omega] at this
          exact absurd this (hm.2 c (by simp))
        · exact heq
        · have := h d.1
          rw [readByte_cons, if_neg (by omega), readByte_of_absent fun e he => by
            have := pm.1 e he; omega, readByte_cons, if_pos rfl] at this
          exact absurd this.symm (hn.2 d (by simp))
      have hval : c.2 = d.2 := by
        have := h c.1
        rwa [readByte_cons, if_pos rfl, readByte_cons, if_pos hkey.symm] at this
      have hrest : m = n := by
        refine ih ⟨pm.2, fun e he => hm.2 e (by simp [he])⟩ ⟨pn.2, fun e he => hn.2 e (by simp [he])⟩
          fun a => ?_
        by_cases ha : c.1 = a
        · rw [readByte_of_absent fun e he => by have := pm.1 e he; omega,
            readByte_of_absent fun e he => by have := pn.1 e he; omega]
        · have := h a
          rwa [readByte_cons, if_neg ha, readByte_cons, if_neg (by omega)] at this
      rw [hrest, Prod.ext hkey hval]

end Sys2Proof.Machine
end

