-- ==== Sys2Proof/Laws/Bytes.lean ====
section
/-! SUPPORT. The laws of byte order and of header fields: pack and unpack, and which field a write leaves alone. -/

namespace Sys2Proof.Machine

/-! ### Little-endian values -/

@[simp] theorem leBytes_length (n v : Nat) : (leBytes n v).length = n := by
  induction n generalizing v with
  | zero => rfl
  | succ n ih => simp [leBytes, ih]

@[simp] theorem leBytes_getElem (n v i : Nat) (h : i < (leBytes n v).length) :
    (leBytes n v)[i] = BitVec.ofNat 8 (v / 256 ^ i) := by
  induction n generalizing v i with
  | zero => simp [leBytes] at h
  | succ n ih =>
    cases i with
    | zero => simp [leBytes]
    | succ i => simp [leBytes, ih, Nat.pow_succ', Nat.div_div_eq_div_mul]

theorem leValue_lt (s : List Byte) : leValue s < 256 ^ s.length := by
  induction s with
  | nil => simp [leValue]
  | cons v s ih =>
    have := v.isLt
    simp only [leValue, List.length_cons, Nat.pow_succ]
    omega

/-- Unpacking what was packed gives the low bytes of the value. -/
theorem leValue_leBytes (n v : Nat) : leValue (leBytes n v) = v % 256 ^ n := by
  induction n generalizing v with
  | zero => simp [leBytes, leValue, Nat.mod_one]
  | succ n ih =>
    have h := Nat.mod_mul (a := 256) (b := 256 ^ n) (x := v)
    rw [leBytes, leValue, ih, BitVec.toNat_ofNat, show 256 ^ (n + 1) = 256 * 256 ^ n from Nat.pow_succ', h]

/-- Packing what was unpacked gives the bytes back. -/
theorem leBytes_leValue (s : List Byte) : leBytes s.length (leValue s) = s := by
  induction s with
  | nil => rfl
  | cons v s ih =>
    have hv := v.isLt
    have h1 : (v.toNat + 256 * leValue s) / 256 = leValue s := by omega
    simp only [List.length_cons, leBytes, leValue, h1, ih]
    congr 1
    apply BitVec.eq_of_toNat_eq
    simp only [BitVec.toNat_ofNat]
    omega

/-- `bytes_n(v)` as slices of `v` (R8) is the packing of its value. -/
theorem sliceBytes_eq {w : Nat} (n : Nat) (v : BitVec w) : sliceBytes n v = leBytes n v.toNat := by
  refine List.ext_getElem (by simp [sliceBytes]) fun i hi _ => ?_
  simp only [sliceBytes, List.getElem_map, List.getElem_range, leBytes_getElem]
  apply BitVec.eq_of_toNat_eq
  simp [Nat.shiftRight_eq_div_pow, Nat.pow_mul]

@[simp] theorem sliceBytes_length {w : Nat} (n : Nat) (v : BitVec w) : (sliceBytes n v).length = n := by
  simp [sliceBytes]

/-! ### Fields -/

theorem getField_lt (m : Memory) (f : Field) : getField m f < 256 ^ f.width := by
  simpa [getField] using leValue_lt (memRead m f.offset f.width)

theorem brOf_lt (m : Memory) : brOf m < 2 ^ 32 := getField_lt m fBytesrem

/-- A field set and got back. -/
theorem getField_setField_same (m : Memory) (f : Field) (v : Nat) :
    getField (setField m f v) f = v % 256 ^ f.width := by
  have := memRead_memWrite_same m f.offset (leBytes f.width v)
  rw [leBytes_length] at this
  rw [getField, setField, this, leValue_leBytes]

/-- A write outside a field leaves the field alone. -/
theorem getField_memWrite (m : Memory) (f : Field) (a : Nat) (s : List Byte)
    (h : f.offset + f.width ≤ a ∨ a + s.length ≤ f.offset) :
    getField (memWrite m a s) f = getField m f := by
  rw [getField, memRead_memWrite_disjoint _ _ _ _ _ h, getField]

/-- A field set leaves every field apart from it alone. -/
theorem getField_setField_other (m : Memory) (f g : Field) (v : Nat)
    (h : g.offset + g.width ≤ f.offset ∨ f.offset + f.width ≤ g.offset) :
    getField (setField m f v) g = getField m g :=
  getField_memWrite _ _ _ _ (by simpa using h)

theorem getField_congr {m m' : Memory} {f : Field}
    (h : ∀ i, i < f.width → readByte m (f.offset + i) = readByte m' (f.offset + i)) :
    getField m f = getField m' f := by
  rw [getField, getField, memRead_congr h]

theorem brOf_congr {m m' : Memory} (h : ∀ x, 40 ≤ x → x < 44 → readByte m x = readByte m' x) :
    brOf m = brOf m' :=
  getField_congr fun i hi => h _ (by simp [fBytesrem]) (by simp [fBytesrem] at hi ⊢; omega)

theorem brOf_memWrite (m : Memory) (a : Nat) (s : List Byte) (h : 44 ≤ a ∨ a + s.length ≤ 40) :
    brOf (memWrite m a s) = brOf m := getField_memWrite m fBytesrem a s h

theorem brOf_setField (m : Memory) (f : Field) (v : Nat) (h : f.offset + f.width ≤ 40) :
    brOf (setField m f v) = brOf m := brOf_memWrite _ _ _ (.inr (by simpa using h))

theorem brOf_setField_bytesrem (m : Memory) (v : Nat) (h : v < 2 ^ 32) :
    brOf (setField m fBytesrem v) = v := by
  rw [brOf, getField_setField_same]
  exact Nat.mod_eq_of_lt h

theorem immlen_setField (m : Memory) (v : Nat) (h : v < 256) :
    getField (setField m fImmlen v) fImmlen = v := by
  rw [getField_setField_same]
  exact Nat.mod_eq_of_lt h

theorem immlen_eq (m : Memory) : getField m fImmlen = (readByte m 23).toNat := by
  simp [getField, fImmlen, memRead, leValue]

theorem cktype_eq (m : Memory) : getField m fCktype = (readByte m 22).toNat := by
  simp [getField, fCktype, memRead, leValue]

theorem wf_setField {m : Memory} (h : m.wf) (f : Field) (v : Nat) : (setField m f v).wf := wf_memWrite h _ _

theorem within_setField {m : Memory} {cap : Nat} (h : m.within cap) (f : Field) (v : Nat)
    (hf : f.offset + f.width ≤ cap) : (setField m f v).within cap :=
  within_memWrite h (.inr (by simpa using hf))

theorem readByte_setField_out (m : Memory) (f : Field) (v x : Nat)
    (h : x < f.offset ∨ f.offset + f.width ≤ x) : readByte (setField m f v) x = readByte m x :=
  readByte_memWrite_out _ _ _ _ (by simpa using h)

/-! ### Derived offsets -/

theorem msgLen_eq (m : Memory) : msgLen m = 44 + brOf m := rfl

theorem ckOff_eq (m : Memory) : ckOff m = 44 + (brOf m - 20) := rfl

theorem ftOff_eq (m : Memory) : ftOff m = 44 + (brOf m - 20) + 16 := rfl

theorem ckOff_congr {m m' : Memory} (h : brOf m = brOf m') : ckOff m = ckOff m' := by
  rw [ckOff_eq, ckOff_eq, h]

theorem ftOff_congr {m m' : Memory} (h : brOf m = brOf m') : ftOff m = ftOff m' := by
  rw [ftOff_eq, ftOff_eq, h]

end Sys2Proof.Machine
end

