-- ==== Sys2Proof/Laws/State.lean ====
section
/-! SUPPORT. One lemma for each field of each update of the state, true by `rfl` or by the two cases of the buffer select. -/

namespace Sys2Proof.Machine

section respond
variable (s : State) (r : Response)
@[simp] theorem respond_params : (s.respond r).params = s.params := rfl
@[simp] theorem respond_req : (s.respond r).req = s.req := rfl
@[simp] theorem respond_rsp : (s.respond r).rsp = s.rsp := rfl
@[simp] theorem respond_xstate : (s.respond r).xstate = s.xstate := rfl
@[simp] theorem respond_port : (s.respond r).port = s.port := rfl
@[simp] theorem respond_response : (s.respond r).response = some r := rfl
@[simp] theorem respond_answers : (s.respond r).answers = s.answers := rfl
@[simp] theorem respond_calls : (s.respond r).calls = s.calls := rfl
@[simp] theorem respond_buf (b : BufSel) : (s.respond r).buf b = s.buf b := by cases b <;> rfl
@[simp] theorem respond_cap (b : BufSel) : (s.respond r).cap b = s.cap b := by cases b <;> rfl
@[simp] theorem respond_byte (b : BufSel) (a : Nat) : (s.respond r).byte b a = s.byte b a := by
  cases b <;> rfl
end respond

section setBuf
variable (s : State) (b : BufSel) (m : Memory)
@[simp] theorem setBuf_params : (s.setBuf b m).params = s.params := by cases b <;> rfl
@[simp] theorem setBuf_xstate : (s.setBuf b m).xstate = s.xstate := by cases b <;> rfl
@[simp] theorem setBuf_port : (s.setBuf b m).port = s.port := by cases b <;> rfl
@[simp] theorem setBuf_response : (s.setBuf b m).response = s.response := by cases b <;> rfl
@[simp] theorem setBuf_answers : (s.setBuf b m).answers = s.answers := by cases b <;> rfl
@[simp] theorem setBuf_calls : (s.setBuf b m).calls = s.calls := by cases b <;> rfl
@[simp] theorem setBuf_buf_self : (s.setBuf b m).buf b = m := by cases b <;> rfl
@[simp] theorem setBuf_cap (c : BufSel) : (s.setBuf b m).cap c = s.cap c := by cases b <;> cases c <;> rfl
@[simp] theorem setBuf_req_rsp : (s.setBuf .req m).rsp = s.rsp := rfl
@[simp] theorem setBuf_rsp_req : (s.setBuf .rsp m).req = s.req := rfl
@[simp] theorem setBuf_req_req : (s.setBuf .req m).req = m := rfl
@[simp] theorem setBuf_rsp_rsp : (s.setBuf .rsp m).rsp = m := rfl
theorem setBuf_buf_ne {c : BufSel} (h : c ≠ b) : (s.setBuf b m).buf c = s.buf c := by
  cases b <;> cases c <;> simp_all [State.buf, State.setBuf]
@[simp] theorem setBuf_buf_eq : s.setBuf b (s.buf b) = s := by cases b <;> rfl
@[simp] theorem setBuf_setBuf (n : Memory) : (s.setBuf b m).setBuf b n = s.setBuf b n := by cases b <;> rfl
end setBuf

section present
variable (s : State) (c : Command)
@[simp] theorem present_params : (s.present c).params = s.params := rfl
@[simp] theorem present_req : (s.present c).req = s.req := rfl
@[simp] theorem present_rsp : (s.present c).rsp = s.rsp := rfl
@[simp] theorem present_xstate : (s.present c).xstate = s.xstate := rfl
@[simp] theorem present_port : (s.present c).port = c :: s.port := rfl
@[simp] theorem present_response : (s.present c).response = s.response := rfl
@[simp] theorem present_answers : (s.present c).answers = s.answers := rfl
@[simp] theorem present_calls : (s.present c).calls = s.calls := rfl
/-- What the host presents is what is fetched, and the state is then as before. -/
@[simp] theorem fetch_present : fetch (s.present c) = some (c, s) := rfl
end present

/-- Everything `fetch` can do. -/
theorem fetch_eq_some {s t : State} {c : Command} (h : fetch s = some (c, t)) :
    ∃ rest, s.port = c :: rest ∧ t = { s with port := rest } := by
  unfold fetch at h
  split at h
  · cases h
  · next rest hp => cases h; exact ⟨rest, hp, rfl⟩

@[simp] theorem buf_req (s : State) : s.buf .req = s.req := rfl
@[simp] theorem buf_rsp (s : State) : s.buf .rsp = s.rsp := rfl
@[simp] theorem cap_req (s : State) : s.cap .req = s.params.capReq.bytes := rfl
@[simp] theorem cap_rsp (s : State) : s.cap .rsp = s.params.capRsp.bytes := rfl
theorem byte_eq (s : State) (b : BufSel) (a : Nat) : s.byte b a = readByte (s.buf b) a := rfl

/-- `64 <= CAP(B) < 2^31` (R6). -/
theorem cap_bounds (s : State) (b : BufSel) : 64 ≤ s.cap b ∧ s.cap b < 2 ^ 31 := by
  have h (c : Capacity) : 64 ≤ c.bytes ∧ c.bytes < 2 ^ 31 := by
    have := c.extra.isLt; simp only [Capacity.bytes]; omega
  cases b <;> exact h _

end Sys2Proof.Machine
end

