-- ==== Sys2Proof/Laws/Ops.lean ====
section
/-! SUPPORT. For each shared operation, what it can do: the lemmas that later proofs cite instead of unfolding it. -/

namespace Sys2Proof.Machine

/-! ### Ending a command -/

theorem takeFault_eq (f : CmdFault) (s : State) : takeFault f s = faultsWith f.code f.info s := rfl

theorem answerQuery_ok (s : State) (r : Results) : answerQuery s (.ok r) = .next (s.respond (okResponse r)) := rfl

theorem answerQuery_error (s : State) (f : CmdFault) :
    answerQuery s (.error f) = faultsWith f.code f.info s := rfl

theorem commitBuffer_ok (s : State) (b : BufSel) (m : Memory) (r : Results) :
    commitBuffer s b (.ok (m, r)) = .next ((s.setBuf b m).respond (okResponse r)) := rfl

theorem commitBuffer_error (s : State) (b : BufSel) (f : CmdFault) :
    commitBuffer s b (.error f) = faultsWith f.code f.info s := rfl

/-- Everything a query command can do. -/
theorem answerQuery_next {s t : State} {q : Except CmdFault Results} (h : answerQuery s q = .next t) :
    (∃ r, q = .ok r ∧ t = s.respond (okResponse r)) ∨ ∃ f, q = .error f ∧ t = s.respond (faultResponse f) := by
  cases q with
  | ok r => cases h; exact .inl ⟨r, rfl, rfl⟩
  | error f => cases h; exact .inr ⟨f, rfl, rfl⟩

/-- Everything a command that writes one buffer can do. -/
theorem commitBuffer_next {s t : State} {b : BufSel} {q : Except CmdFault (Memory × Results)}
    (h : commitBuffer s b q = .next t) :
    (∃ m r, q = .ok (m, r) ∧ t = (s.setBuf b m).respond (okResponse r))
      ∨ ∃ f, q = .error f ∧ t = s.respond (faultResponse f) := by
  cases q with
  | ok p => cases h; exact .inl ⟨p.1, p.2, rfl, rfl⟩
  | error f => cases h; exact .inr ⟨f, rfl, rfl⟩

theorem sameOutside_commit (s : State) (b : BufSel) (m : Memory) (r : Response) :
    sameOutside b s ((s.setBuf b m).respond r) := by
  refine ⟨by simp, ?_, by simp, by simp, by simp, by simp⟩
  cases b <;> rfl

/-! ### The window check -/

theorem window_ok {cap : Nat} {m : Memory} (h1 : 20 ≤ brOf m) (h2 : 44 + brOf m ≤ cap) :
    window cap m = .ok () := by
  unfold window
  rw [if_neg (by simp [minBr]; omega), if_neg (by simp [msgLen_eq]; omega)]

theorem window_badLength {cap : Nat} {m : Memory} (h : brOf m < 20) :
    window cap m = .error (.badLength (brOf m)) := by
  unfold window; rw [if_pos (by simpa [minBr] using h)]

theorem window_tooSmall {cap : Nat} {m : Memory} (h1 : 20 ≤ brOf m) (h2 : cap < 44 + brOf m) :
    window cap m = .error (.bufferTooSmall (44 + brOf m)) := by
  unfold window
  rw [if_neg (by simp [minBr]; omega), if_pos (by simpa [msgLen_eq] using h2), msgLen_eq]

/-- `Window(B)` passes exactly when the whole message lies in the buffer. -/
theorem window_ok_iff {cap : Nat} {m : Memory} :
    window cap m = .ok () ↔ 20 ≤ brOf m ∧ 44 + brOf m ≤ cap := by
  constructor
  · intro h
    by_cases h1 : brOf m < 20
    · rw [window_badLength h1] at h; cases h
    · by_cases h2 : cap < 44 + brOf m
      · rw [window_tooSmall (by omega) h2] at h; cases h
      · omega
  · rintro ⟨h1, h2⟩; exact window_ok h1 h2

theorem withWindow_ok {α : Type} {cap : Nat} {m : Memory} {k : Except CmdFault α}
    (h1 : 20 ≤ brOf m) (h2 : 44 + brOf m ≤ cap) : withWindow cap m k = k := by
  rw [withWindow, window_ok h1 h2]

theorem withWindow_badLength {α : Type} {cap : Nat} {m : Memory} {k : Except CmdFault α}
    (h : brOf m < 20) : withWindow cap m k = .error (.badLength (brOf m)) := by
  rw [withWindow, window_badLength h]

theorem withWindow_tooSmall {α : Type} {cap : Nat} {m : Memory} {k : Except CmdFault α}
    (h1 : 20 ≤ brOf m) (h2 : cap < 44 + brOf m) :
    withWindow cap m k = .error (.bufferTooSmall (44 + brOf m)) := by
  rw [withWindow, window_tooSmall h1 h2]

/-- A command behind the window check that completes passed it. -/
theorem withWindow_eq_ok {α : Type} {cap : Nat} {m : Memory} {k : Except CmdFault α} {x : α}
    (h : withWindow cap m k = .ok x) : 20 ≤ brOf m ∧ 44 + brOf m ≤ cap ∧ k = .ok x := by
  unfold withWindow at h
  split at h
  · next hw => exact ⟨(window_ok_iff.mp hw).1, (window_ok_iff.mp hw).2, h⟩
  · cases h

/-! ### The regions -/

theorem immWrite_ok (m : Memory) {off : Nat} (s : List Byte) (h : off ≤ 16) :
    immWrite m off s = .ok (setField (memWrite m (24 + off) (s.take (min s.length (16 - off)))) fImmlen
      (off + min s.length (16 - off)), min s.length (16 - off)) := by
  unfold immWrite
  rw [if_neg (by simp [immCap]; omega)]
  rfl

theorem immWrite_error (m : Memory) {off : Nat} (s : List Byte) (h : 16 < off) :
    immWrite m off s = .error (.offsetRange off) := by
  unfold immWrite; rw [if_pos (by simpa [immCap] using h)]

theorem immRead_ok (m : Memory) {off n : Nat} (h : off + n ≤ 16) :
    immRead m off n = .ok (memRead m (24 + off) n) := by
  unfold immRead; rw [if_neg (by simp [immCap]; omega)]; rfl

theorem immRead_error (m : Memory) {off n : Nat} (h : 16 < off + n) :
    immRead m off n = .error (.offsetRange (off + n)) := by
  unfold immRead; rw [if_pos (by simpa [immCap] using h)]

theorem payWrite_ok {cap : Nat} (m : Memory) {off : Nat} {s : List Byte} (h : 44 + off + s.length ≤ cap) :
    payWrite cap m off s
      = .ok (setField (memWrite m (44 + off) s) fBytesrem (off + s.length + 20), s.length) := by
  unfold payWrite; rw [if_neg (by simp [hdrLen]; omega)]; rfl

theorem payWrite_error {cap : Nat} (m : Memory) {off : Nat} {s : List Byte} (h : cap < 44 + off + s.length) :
    payWrite cap m off s = .error (.bufferTooSmall (44 + off + s.length)) := by
  unfold payWrite; rw [if_pos (by simpa [hdrLen] using h)]; rfl

theorem payRead_badLength {cap : Nat} {m : Memory} {off n : Nat} (h : brOf m < 20) :
    payRead cap m off n = .error (.badLength (brOf m)) := by
  unfold payRead; rw [if_pos (by simpa [minBr] using h)]

theorem payRead_range {cap : Nat} {m : Memory} {off n : Nat} (h1 : 20 ≤ brOf m)
    (h2 : brOf m - 20 < off + n) : payRead cap m off n = .error (.offsetRange (off + n)) := by
  unfold payRead; rw [if_neg (by simp [minBr]; omega), if_pos (by simpa [minBr] using h2)]

theorem payRead_tooSmall {cap : Nat} {m : Memory} {off n : Nat} (h1 : 20 ≤ brOf m)
    (h2 : off + n ≤ brOf m - 20) (h3 : cap < 44 + off + n) :
    payRead cap m off n = .error (.bufferTooSmall (44 + off + n)) := by
  unfold payRead
  rw [if_neg (by simp [minBr]; omega), if_neg (by simp [minBr]; omega), if_pos (by simpa [hdrLen] using h3)]
  rfl

theorem payRead_ok {cap : Nat} {m : Memory} {off n : Nat} (h1 : 20 ≤ brOf m)
    (h2 : off + n ≤ brOf m - 20) (h3 : 44 + off + n ≤ cap) :
    payRead cap m off n = .ok (memRead m (44 + off) n) := by
  unfold payRead
  rw [if_neg (by simp [minBr]; omega), if_neg (by simp [minBr]; omega), if_neg (by simp [hdrLen]; omega)]
  rfl

/-! ### The transport -/

/-- A transport call changes only the call history and the script. -/
theorem callTransport_some {c : TransportCall} {s t : State} {st : TransportStatus} {bytes : List Byte}
    (h : callTransport c s = some (st, bytes, t)) :
    t = { s with calls := c :: s.calls, answers := s.answers.tail } := by
  unfold callTransport at h
  split at h
  · next ha => cases h; simp [ha]
  · cases h
  · next ha => cases h; simp [ha]

theorem callTransport_answered {c : TransportCall} {s : State} {st : TransportStatus} {bytes : List Byte}
    {rest : List TransportAnswer} (h : s.answers = .answered st bytes :: rest) :
    callTransport c s = some (st, bytes, { s with calls := c :: s.calls, answers := rest }) := by
  unfold callTransport; rw [h]

/-- The transport does not answer exactly when the next scripted answer is silence. -/
theorem callTransport_none {c : TransportCall} {s : State} :
    callTransport c s = none ↔ s.answers.head? = some .silent := by
  unfold callTransport
  split <;> simp_all

@[simp] theorem freeBytes_length (calls : List TransportCall) (a n : Nat) : (freeBytes calls a n).length = n := by
  induction n generalizing a with
  | zero => rfl
  | succ n ih => simp [freeBytes, ih]

/-- Everything a receive can do: the call joins the history, one answer is taken, and `RSP` changes within
the span only; a success of all the bytes puts them there. -/
theorem receiveBytes_some {off n k : Nat} {s t : State} {st : TransportStatus}
    (h : receiveBytes off n s = some (st, k, t)) :
    k ≤ n ∧ ∃ bs : List Byte, bs.length = n
      ∧ t = { s with rsp := memWrite s.rsp off bs, calls := .receiveBytes off n :: s.calls,
                     answers := s.answers.tail } := by
  unfold receiveBytes at h
  split at h
  · cases h
  · next st' bytes u hc =>
    have hu := callTransport_some hc
    simp only at h
    split at h
    · next hk =>
      cases h
      refine ⟨Nat.min_le_right _ _, bytes.take n, by simp; omega, ?_⟩
      rw [hu]
    · cases h
      refine ⟨Nat.min_le_right _ _, freeBytes u.calls off n, by simp, ?_⟩
      rw [hu]

/-- A receive that delivers all it was asked for. -/
theorem receiveBytes_success {off n : Nat} {s : State} {bytes : List Byte} {rest : List TransportAnswer}
    (h : s.answers = .answered .success bytes :: rest) (hn : n ≤ bytes.length) :
    receiveBytes off n s = some (.success, n,
      { s with rsp := memWrite s.rsp off (bytes.take n), calls := .receiveBytes off n :: s.calls,
               answers := rest }) := by
  unfold receiveBytes
  rw [callTransport_answered h]
  simp [Nat.min_eq_right hn]

/-- A receive that does not: each byte of the span is a free value. -/
theorem receiveBytes_failure {off n : Nat} {s : State} {st : TransportStatus} {bytes : List Byte}
    {rest : List TransportAnswer} (h : s.answers = .answered st bytes :: rest)
    (hn : st ≠ .success ∨ bytes.length < n) :
    receiveBytes off n s = some (st, min bytes.length n,
      { s with rsp := memWrite s.rsp off (freeBytes (.receiveBytes off n :: s.calls) off n),
               calls := .receiveBytes off n :: s.calls, answers := rest }) := by
  unfold receiveBytes
  rw [callTransport_answered h]
  simp only
  rw [if_neg]
  rintro ⟨h1, h2⟩
  rcases hn with hn | hn
  · exact hn h1
  · omega

theorem receiveBytes_none {off n : Nat} {s : State} :
    receiveBytes off n s = none ↔ s.answers.head? = some .silent := by
  rw [← callTransport_none (c := .receiveBytes off n)]
  unfold receiveBytes
  split
  · simp_all
  · simp only [*, reduceCtorEq, iff_false]
    split <;> simp

end Sys2Proof.Machine
end

