-- ==== Sys2Proof/Laws/PerInstr.lean ====
section
/-! SUPPORT. A law proved instruction by instruction: the reserved bits of the command word. -/

namespace Sys2Proof.Laws.ReservedBitsZero

/-- Bits 15 to 9 of an instruction's command word are zero, as spec/30_encoding.md R98 and R100 require of
a defined command. -/
def Statement (i : Instr) : Prop := reservedOf (encode i).cw = 0

/-- The reserved bits of every command word of R98. -/
theorem commandWord_reserved (op : Byte) (b : BufSel) : reservedOf (commandWord op b) = 0 := by
  revert op; cases b <;> decide +kernel

theorem init (b : BufSel) : Statement (.init b) := commandWord_reserved _ _
theorem clear (b : BufSel) : Statement (.clear b) := commandWord_reserved _ _
theorem getSync (b : BufSel) : Statement (.getSync b) := commandWord_reserved _ _
theorem getVer (b : BufSel) : Statement (.getVer b) := commandWord_reserved _ _
theorem getFlags (b : BufSel) : Statement (.getFlags b) := commandWord_reserved _ _
theorem getErrno (b : BufSel) : Statement (.getErrno b) := commandWord_reserved _ _
theorem getMsgtype (b : BufSel) : Statement (.getMsgtype b) := commandWord_reserved _ _
theorem getRegarding (b : BufSel) : Statement (.getRegarding b) := commandWord_reserved _ _
theorem getRsvd (b : BufSel) : Statement (.getRsvd b) := commandWord_reserved _ _
theorem getCktype (b : BufSel) : Statement (.getCktype b) := commandWord_reserved _ _
theorem getImmlen (b : BufSel) : Statement (.getImmlen b) := commandWord_reserved _ _
theorem getBytesrem (b : BufSel) : Statement (.getBytesrem b) := commandWord_reserved _ _
theorem setSync (b : BufSel) (v : Half) : Statement (.setSync b v) := commandWord_reserved _ _
theorem setVer (b : BufSel) (v : Half) : Statement (.setVer b v) := commandWord_reserved _ _
theorem setFlags (b : BufSel) (v : Half) : Statement (.setFlags b v) := commandWord_reserved _ _
theorem setErrno (b : BufSel) (v : Half) : Statement (.setErrno b v) := commandWord_reserved _ _
theorem setMsgtype (b : BufSel) (v : Word) : Statement (.setMsgtype b v) := commandWord_reserved _ _
theorem setRegarding (b : BufSel) (v : Word) : Statement (.setRegarding b v) := commandWord_reserved _ _
theorem setRsvd (b : BufSel) (v : Word48) : Statement (.setRsvd b v) := commandWord_reserved _ _
theorem setCktype (b : BufSel) (v : Byte) : Statement (.setCktype b v) := commandWord_reserved _ _
theorem setImmlen (b : BufSel) (v : Byte) : Statement (.setImmlen b v) := commandWord_reserved _ _
theorem setBytesrem (b : BufSel) (v : Word) : Statement (.setBytesrem b v) := commandWord_reserved _ _
theorem setImmByte (b : BufSel) (off : Word) (v : Byte) : Statement (.setImmByte b off v) := commandWord_reserved _ _
theorem setImmShort (b : BufSel) (off : Word) (v : Half) : Statement (.setImmShort b off v) := commandWord_reserved _ _
theorem setImmInt (b : BufSel) (off : Word) (v : Word) : Statement (.setImmInt b off v) := commandWord_reserved _ _
theorem setImmLong (b : BufSel) (off : Word) (v : Dword) : Statement (.setImmLong b off v) := commandWord_reserved _ _
theorem setImmFloat (b : BufSel) (off : Word) (v : Word) : Statement (.setImmFloat b off v) := commandWord_reserved _ _
theorem setImmDouble (b : BufSel) (off : Word) (v : Dword) : Statement (.setImmDouble b off v) := commandWord_reserved _ _
theorem setImmBytes (b : BufSel) (off len : Word) (wbytes : List Byte) : Statement (.setImmBytes b off len wbytes) := commandWord_reserved _ _
theorem getImmByte (b : BufSel) (off : Word) : Statement (.getImmByte b off) := commandWord_reserved _ _
theorem getImmShort (b : BufSel) (off : Word) : Statement (.getImmShort b off) := commandWord_reserved _ _
theorem getImmInt (b : BufSel) (off : Word) : Statement (.getImmInt b off) := commandWord_reserved _ _
theorem getImmLong (b : BufSel) (off : Word) : Statement (.getImmLong b off) := commandWord_reserved _ _
theorem getImmFloat (b : BufSel) (off : Word) : Statement (.getImmFloat b off) := commandWord_reserved _ _
theorem getImmDouble (b : BufSel) (off : Word) : Statement (.getImmDouble b off) := commandWord_reserved _ _
theorem getImmBytes (b : BufSel) (off len : Word) : Statement (.getImmBytes b off len) := commandWord_reserved _ _
theorem setPayByte (b : BufSel) (off : Word) (v : Byte) : Statement (.setPayByte b off v) := commandWord_reserved _ _
theorem setPayShort (b : BufSel) (off : Word) (v : Half) : Statement (.setPayShort b off v) := commandWord_reserved _ _
theorem setPayInt (b : BufSel) (off : Word) (v : Word) : Statement (.setPayInt b off v) := commandWord_reserved _ _
theorem setPayLong (b : BufSel) (off : Word) (v : Dword) : Statement (.setPayLong b off v) := commandWord_reserved _ _
theorem setPayFloat (b : BufSel) (off : Word) (v : Word) : Statement (.setPayFloat b off v) := commandWord_reserved _ _
theorem setPayDouble (b : BufSel) (off : Word) (v : Dword) : Statement (.setPayDouble b off v) := commandWord_reserved _ _
theorem setPayBytes (b : BufSel) (off len : Word) (wbytes : List Byte) : Statement (.setPayBytes b off len wbytes) := commandWord_reserved _ _
theorem getPayByte (b : BufSel) (off : Word) : Statement (.getPayByte b off) := commandWord_reserved _ _
theorem getPayShort (b : BufSel) (off : Word) : Statement (.getPayShort b off) := commandWord_reserved _ _
theorem getPayInt (b : BufSel) (off : Word) : Statement (.getPayInt b off) := commandWord_reserved _ _
theorem getPayLong (b : BufSel) (off : Word) : Statement (.getPayLong b off) := commandWord_reserved _ _
theorem getPayFloat (b : BufSel) (off : Word) : Statement (.getPayFloat b off) := commandWord_reserved _ _
theorem getPayDouble (b : BufSel) (off : Word) : Statement (.getPayDouble b off) := commandWord_reserved _ _
theorem getPayBytes (b : BufSel) (off len : Word) : Statement (.getPayBytes b off len) := commandWord_reserved _ _
theorem cksumCompute (b : BufSel) : Statement (.cksumCompute b) := commandWord_reserved _ _
theorem cksumMatch (b : BufSel) : Statement (.cksumMatch b) := commandWord_reserved _ _
theorem getCksum (b : BufSel) : Statement (.getCksum b) := commandWord_reserved _ _
theorem setCksum (b : BufSel) (len : Word) (wbytes : List Byte) : Statement (.setCksum b len wbytes) := commandWord_reserved _ _
theorem setFooter (b : BufSel) : Statement (.setFooter b) := commandWord_reserved _ _
theorem getFooter (b : BufSel) : Statement (.getFooter b) := commandWord_reserved _ _
theorem checkFooter (b : BufSel) : Statement (.checkFooter b) := commandWord_reserved _ _
theorem msgSize (b : BufSel) : Statement (.msgSize b) := commandWord_reserved _ _
theorem putAuto (b : BufSel) (len : Word) (wbytes : List Byte) (threshold : Byte) : Statement (.putAuto b len wbytes threshold) := commandWord_reserved _ _
theorem getAuto (b : BufSel) : Statement (.getAuto b) := commandWord_reserved _ _
theorem getString (b : BufSel) (minPrint : Byte) : Statement (.getString b minPrint) := commandWord_reserved _ _
theorem finalize (b : BufSel) (msgType : Word) : Statement (.finalize b msgType) := commandWord_reserved _ _
theorem hdrParse (b : BufSel) : Statement (.hdrParse b) := commandWord_reserved _ _
theorem rspClassify (b : BufSel) : Statement (.rspClassify b) := commandWord_reserved _ _
theorem xact (msgType : Word) (always : Bool) (decOp decArg : Byte) (off len : Word) : Statement (.xact msgType always decOp decArg off len) := commandWord_reserved _ _

end Sys2Proof.Laws.ReservedBitsZero
end

