-- ==== Sys2Proof/Laws/Pseudo.lean ====
section
/-! SUPPORT. Sequences of commands and the transactions of message variants: how a sequence splits, and all that a transaction of a variant can do. -/

namespace Sys2Proof.Machine

@[simp] theorem execSeq_nil (s : State) : execSeq [] s = .next s := rfl

@[simp] theorem execReads_nil (s : State) : execReads [] s = .next (s, []) := rfl

@[simp] theorem reads_inXact (m : Word) (a : Bool) (e : List Instr) (o g : Byte) (f l : Word) :
    (Variant.mk m a e (.inXact o g f l)).reads = [] := rfl

@[simp] theorem reads_afterXact (m : Word) (a : Bool) (e rs : List Instr) :
    (Variant.mk m a e (.afterXact rs)).reads = rs := rfl

/-- A sequence in two parts: the second runs from where the first ends. -/
theorem execSeq_append {p : List Instr} {s t : State} (q : List Instr) (h : execSeq p s = .next t) :
    execSeq (p ++ q) s = execSeq q t := by
  induction p generalizing s with
  | nil => cases h; rfl
  | cons i p ih =>
    simp only [List.cons_append, execSeq] at h ⊢
    split at h
    · exact ih h
    · cases h
    · cases h

/-- Collecting the responses leaves the state that running the commands leaves. -/
theorem execReads_state {p : List Instr} {s u : State} {rs : List Response} (h : execReads p s = .next (u, rs)) :
    execSeq p s = .next u := by
  induction p generalizing s rs with
  | nil => cases h; rfl
  | cons i p ih =>
    simp only [execReads] at h
    simp only [execSeq]
    split at h
    · split at h
      · next hr => cases h; exact ih hr
      · cases h
      · cases h
    · cases h
    · cases h

/-- All that a transaction of a variant can do: `XACT` delivered a response and all commands of the variant
have run, or it did not and none was issued after it. -/
theorem Variant.run_cases {v : Variant} {s u : State} {rs : List Response} (h : v.run s = .next (u, rs)) :
    ∃ t, execSeq v.request s = .next t
      ∧ ((t.response.any Response.delivered = true ∧ execSeq v.transaction s = .next u
          ∧ ∃ qs, execReads v.reads t = .next (u, qs) ∧ rs = t.response.toList ++ qs)
        ∨ (t.response.any Response.delivered = false ∧ u = t ∧ rs = t.response.toList)) := by
  simp only [Variant.run] at h
  split at h
  · next t ht =>
    refine ⟨t, ht, ?_⟩
    split at h
    · next hd =>
      split at h
      · next hr =>
        cases h
        exact .inl ⟨hd, (execSeq_append _ ht).trans (execReads_state hr), _, hr, rfl⟩
      · cases h
      · cases h
    · next hd => cases h; exact .inr ⟨by simpa using hd, rfl, rfl⟩
  · cases h
  · cases h

end Sys2Proof.Machine
end

