-- ==== Sys2Proof/Laws/Transaction.lean ====
section
/-! SUPPORT. The laws of the transaction's parts: what finalizing keeps, what a decode command depends on, and what each receiving stage can do. -/

namespace Sys2Proof.Machine

/-! ### Checksum and finalize -/

@[simp] theorem md5_length (m : List Byte) : (md5 m).length = 16 := by simp [md5]

@[simp] theorem expectedChecksum_length (m : Memory) : (expectedChecksum m).length = 16 := by
  unfold expectedChecksum; split <;> simp [ckLen]

@[simp] theorem brOf_writeChecksum (m : Memory) : brOf (writeChecksum m) = brOf m :=
  brOf_memWrite _ _ _ (.inl (by rw [ckOff_eq]; omega))

@[simp] theorem brOf_writeFooter (m : Memory) : brOf (writeFooter m) = brOf m :=
  brOf_memWrite _ _ _ (.inl (by rw [ftOff_eq]; omega))

@[simp] theorem brOf_finalizeBuffer (t : Word) (m : Memory) : brOf (finalizeBuffer t m) = brOf m := by
  rw [finalizeBuffer, brOf_writeFooter, brOf_writeChecksum, brOf_setField _ _ _ (by decide)]

/-- Finalizing leaves every header field but the message type alone. -/
theorem getField_finalizeBuffer (t : Word) (m : Memory) (f : Field) (h : f.offset + f.width ≤ 44)
    (hm : f.offset + f.width ≤ 8 ∨ 12 ≤ f.offset) :
    getField (finalizeBuffer t m) f = getField m f := by
  rw [finalizeBuffer, writeFooter, writeChecksum, getField_memWrite, getField_memWrite, getField_setField_other]
  · simp only [fMsgtype]; omega
  · rw [ckOff_eq]; omega
  · rw [ftOff_eq]; omega

@[simp] theorem ackRequested_finalizeBuffer (p : FlagPositions) (t : Word) (m : Memory) :
    ackRequested p (finalizeBuffer t m) = ackRequested p m := by
  simp only [ackRequested, flagAt, getField_finalizeBuffer t m fFlags (by decide) (by decide)]

theorem wf_finalizeBuffer {m : Memory} (h : m.wf) (t : Word) : (finalizeBuffer t m).wf :=
  wf_memWrite (wf_memWrite (wf_setField h _ _) _ _) _ _

/-- Finalizing behind a window that passes stays within the capacity. -/
theorem within_finalizeBuffer {m : Memory} {cap : Nat} (h : m.within cap) (t : Word)
    (h1 : 20 ≤ brOf m) (h2 : 44 + brOf m ≤ cap) : (finalizeBuffer t m).within cap := by
  have hb : brOf (setField m fMsgtype t.toNat) = brOf m := brOf_setField _ _ _ (by decide)
  refine within_memWrite (within_memWrite (within_setField h _ _ (by simp only [fMsgtype]; omega)) ?_) ?_
  · right; rw [ckOff_eq, hb, expectedChecksum_length]; omega
  · right; rw [ftOff_eq, brOf_writeChecksum, hb]; simp only [footerBytes, List.length_cons, List.length_nil]; omega

/-! ### The decode command -/

/-- A read command depends on the parameters and the two buffers only. -/
theorem queryInstr_congr {s t : State} (i : Instr) (hp : s.params = t.params) (hq : s.req = t.req)
    (hr : s.rsp = t.rsp) : queryInstr s i = queryInstr t i := by
  have hb (b : BufSel) : s.buf b = t.buf b := by cases b <;> assumption
  have hc (b : BufSel) : s.cap b = t.cap b := by cases b <;> simp [State.cap, hp]
  cases i <;> simp only [queryInstr, queryGetSync, queryGetVer, queryGetFlags, queryGetErrno, queryGetMsgtype,
    queryGetRegarding, queryGetRsvd, queryGetCktype, queryGetImmlen, queryGetBytesrem, queryGetImmByte,
    queryGetImmShort, queryGetImmInt, queryGetImmLong, queryGetImmFloat, queryGetImmDouble, queryGetImmBytes,
    queryGetPayByte, queryGetPayShort, queryGetPayInt, queryGetPayLong, queryGetPayFloat, queryGetPayDouble,
    queryGetPayBytes, queryCksumMatch, queryGetCksum, queryGetFooter, queryCheckFooter, queryMsgSize,
    queryGetAuto, queryGetString, queryHdrParse, queryRspClassify, hb, hc, hp]

/-- A read command outside a transaction answers what it answers inside one. -/
theorem exec_of_queryInstr {s : State} {i : Instr} {q : Except CmdFault Results}
    (h : queryInstr s i = some q) : exec i s = answerQuery s q := by
  cases i <;> cases h <;> rfl

/-! ### The stages -/

@[simp] theorem andThen_goOn (s : State) (k : State → XStage) : (XStage.goOn s).andThen k = k s := rfl
@[simp] theorem andThen_ended (s : State) (x : XResult) (r : Results) (k : State → XStage) :
    (XStage.ended s x r).andThen k = .ended s x r := rfl
@[simp] theorem andThen_silent (k : State → XStage) : XStage.silent.andThen k = .silent := rfl

/-- The send, when the transport answers. -/
theorem xactSend_answered {s : State} {st : TransportStatus} {bytes : List Byte} {rest : List TransportAnswer}
    (h : s.answers = .answered st bytes :: rest) :
    xactSend s
      = if st = .success then
          .goOn { s with calls := .sendBytes (memRead s.req 0 (44 + brOf s.req)) :: s.calls, answers := rest,
                         xstate := .sent }
        else
          .ended { s with calls := .sendBytes (memRead s.req 0 (44 + brOf s.req)) :: s.calls, answers := rest,
                          xstate := .failed } (ioFailure st 3) {} := by
  rw [xactSend, callTransport_answered h]; rfl

/-- The header stage, when all 44 bytes arrive. -/
theorem xactHeader_success {s : State} {bytes : List Byte} {rest : List TransportAnswer}
    (h : s.answers = .answered .success bytes :: rest) (hn : 44 ≤ bytes.length) :
    xactHeader s
      = .goOn { s with rsp := memWrite s.rsp 0 (bytes.take 44), calls := .receiveBytes 0 44 :: s.calls,
                       answers := rest, xstate := .awaitingRemainder } := by
  rw [xactHeader, show hdrLen = 44 from rfl, receiveBytes_success h hn]; rfl

/-- The header stage, when the receive fails or is short. -/
theorem xactHeader_failure {s : State} {st : TransportStatus} {bytes : List Byte} {rest : List TransportAnswer}
    (h : s.answers = .answered st bytes :: rest) (hn : st ≠ .success ∨ bytes.length < 44) :
    xactHeader s
      = .ended { s with rsp := memWrite s.rsp 0 (freeBytes (.receiveBytes 0 44 :: s.calls) 0 44),
                        calls := .receiveBytes 0 44 :: s.calls, answers := rest, xstate := .failed }
          (ioFailure (if st = .success then .insufficientData else st) 5) {} := by
  rw [xactHeader, show hdrLen = 44 from rfl, receiveBytes_failure h hn]
  simp only
  split
  · rfl
  · next h1 =>
    have h1 : st = .success := by simpa using h1
    rw [if_pos (by rcases hn with hn | hn; exact absurd h1 hn; omega), if_pos h1]; rfl

/-- The remainder stage, when the whole remainder arrives. -/
theorem xactRemainder_success {s : State} {bytes : List Byte} {rest : List TransportAnswer}
    (h1 : 20 ≤ brOf s.rsp) (h2 : 44 + brOf s.rsp ≤ s.params.capRsp.bytes)
    (h : s.answers = .answered .success bytes :: rest) (hn : brOf s.rsp ≤ bytes.length) :
    xactRemainder s
      = .goOn { s with rsp := memWrite s.rsp 44 (bytes.take (brOf s.rsp)),
                       calls := .receiveBytes 44 (brOf s.rsp) :: s.calls, answers := rest } := by
  rw [xactRemainder, if_neg (by simp only [minBr]; omega), if_neg (by rw [msgLen_eq]; omega),
    show hdrLen = 44 from rfl, receiveBytes_success h hn]
  simp only [ne_eq, not_true_eq_false, if_false]
  rw [if_neg (by simp only [minBr]; omega)]

/-- The remainder stage, when the receive fails or is short. -/
theorem xactRemainder_failure {s : State} {st : TransportStatus} {bytes : List Byte} {rest : List TransportAnswer}
    (h1 : 20 ≤ brOf s.rsp) (h2 : 44 + brOf s.rsp ≤ s.params.capRsp.bytes)
    (h : s.answers = .answered st bytes :: rest) (hn : st ≠ .success ∨ bytes.length < brOf s.rsp) :
    xactRemainder s
      = .ended { s with
            rsp := memWrite s.rsp 44 (freeBytes (.receiveBytes 44 (brOf s.rsp) :: s.calls) 44 (brOf s.rsp)),
            calls := .receiveBytes 44 (brOf s.rsp) :: s.calls, answers := rest, xstate := .failed }
          (ioFailure (if st = .success then .insufficientData else st) 6) {} := by
  rw [xactRemainder, if_neg (by simp only [minBr]; omega), if_neg (by rw [msgLen_eq]; omega),
    show hdrLen = 44 from rfl, receiveBytes_failure h hn]
  simp only
  split
  · rfl
  · next hs =>
    have hs : st = .success := by simpa using hs
    rw [if_pos (by rcases hn with hn | hn; exact absurd hs hn; omega), if_pos hs]; rfl

/-! ### Everything a stage can do, whatever the transport answers -/

/-- The send: no answer, the next stage, or an IO failure at step 3; the call and the answer are used up. -/
theorem xactSend_cases (s : State) :
    let v : State := { s with
      calls := .sendBytes (memRead s.req 0 (44 + brOf s.req)) :: s.calls, answers := s.answers.tail }
    xactSend s = .silent ∨ xactSend s = .goOn { v with xstate := .sent }
      ∨ ∃ st, st ≠ .success ∧ xactSend s = xactFail v (ioFailure st 3) := by
  unfold xactSend
  split
  · exact .inl rfl
  · next st _ t h =>
    rw [callTransport_some h]
    split
    · exact .inr (.inl rfl)
    · next hst => exact .inr (.inr ⟨st, hst, rfl⟩)

/-- The header stage: no answer, the next stage, or an IO failure at step 5; `RSP` changes within its first 44
bytes. -/
theorem xactHeader_cases (s : State) :
    xactHeader s = .silent ∨ ∃ bs : List Byte, bs.length = 44 ∧
      let v : State := { s with
        rsp := memWrite s.rsp 0 bs, calls := .receiveBytes 0 44 :: s.calls, answers := s.answers.tail }
      xactHeader s = .goOn { v with xstate := .awaitingRemainder }
        ∨ ∃ io, io ≠ .success ∧ xactHeader s = xactFail v (ioFailure io 5) := by
  unfold xactHeader
  split
  · exact .inl rfl
  · next st n t h =>
    obtain ⟨_, bs, hl, ht⟩ := receiveBytes_some h
    refine .inr ⟨bs, hl, ?_⟩
    rw [ht]
    split
    · next hst => exact .inr ⟨st, hst, rfl⟩
    · split
      · exact .inr ⟨.insufficientData, by simp, rfl⟩
      · exact .inl rfl

/-- The remainder stage: a failure without a call when the header claims too few or too many bytes; else no
answer, the next stage, or an IO failure at step 6, and `RSP` changes within the `BR(RSP)` bytes after the
header. -/
theorem xactRemainder_cases (s : State) :
    ((brOf s.rsp < 20 ∨ s.params.capRsp.bytes < 44 + brOf s.rsp)
        ∧ ∃ io, io ≠ .success ∧ xactRemainder s = xactFail s (ioFailure io 6))
      ∨ (20 ≤ brOf s.rsp ∧ 44 + brOf s.rsp ≤ s.params.capRsp.bytes ∧
        (xactRemainder s = .silent ∨ ∃ bs : List Byte, bs.length = brOf s.rsp ∧
          let v : State := { s with
            rsp := memWrite s.rsp 44 bs, calls := .receiveBytes 44 (brOf s.rsp) :: s.calls,
            answers := s.answers.tail }
          xactRemainder s = .goOn v ∨ ∃ io, io ≠ .success ∧ xactRemainder s = xactFail v (ioFailure io 6))) := by
  unfold xactRemainder
  split
  · next h => exact .inl ⟨.inl h, .insufficientData, by simp, rfl⟩
  · next h1 =>
    split
    · next h => exact .inl ⟨.inr h, .outOfRange, by simp, rfl⟩
    · next h2 =>
      refine .inr ⟨Nat.not_lt.mp h1, Nat.not_lt.mp h2, ?_⟩
      split
      · exact .inl rfl
      · next st n t h =>
        obtain ⟨_, bs, hl, ht⟩ := receiveBytes_some h
        refine .inr ⟨bs, hl, ?_⟩
        rw [ht]
        split
        · next hst => exact .inr ⟨st, hst, rfl⟩
        · split
          · exact .inr ⟨.insufficientData, by simp, rfl⟩
          · exact .inl rfl

/-- The validate step changes nothing but `xstate`. -/
theorem xactValidate_cases (s : State) :
    xactValidate s = .goOn s ∨ ∃ x, x.kind = .framingError ∧ x.xs = .failed ∧ xactValidate s = xactFail s x := by
  unfold xactValidate
  split
  · exact .inr ⟨_, rfl, rfl, rfl⟩
  · split
    · exact .inr ⟨_, rfl, rfl, rfl⟩
    · exact .inl rfl

/-- Step 7 changes nothing but `xstate`. -/
theorem xactClassify_cases (s : State) :
    xactClassify s = .goOn s ∨ ∃ x, x.kind = .protocolFailure ∧ x.xs = .failed ∧ xactClassify s = xactFail s x := by
  unfold xactClassify
  split
  · exact .inr ⟨_, rfl, rfl, rfl⟩
  · exact .inl rfl

/-- Step 8 ends the transaction, and changes nothing but `xstate`. -/
theorem xactDecode_cases (decOp decArg : Byte) (off len : Word) (s : State) :
    (∃ x r, x.kind = .success ∧ x.xs = .success
        ∧ xactDecode decOp decArg off len s = .ended { s with xstate := .success } x r)
      ∨ ∃ x, x.kind = .decodeFault ∧ x.xs = .failed ∧ xactDecode decOp decArg off len s = xactFail s x := by
  unfold xactDecode
  split
  · exact .inl ⟨_, _, rfl, rfl, rfl⟩
  · split
    · exact .inr ⟨_, rfl, rfl, rfl⟩
    · exact .inl ⟨_, _, rfl, rfl, rfl⟩

/-! ### The result -/

/-- The packing of a result as the number the fields make (R340). -/
theorem pack_eq (x : XResult) :
    x.pack = BitVec.ofNat 48 (x.kind.code.toNat + 2 ^ 4 * (statusCode x.io).toNat + 2 ^ 8 * x.step.toNat
      + 2 ^ 12 * (xstateCode x.xs).toNat + 2 ^ 15 * (BitVec.ofBool x.rspValid).toNat + 2 ^ 16 * x.errno.toNat
      + 2 ^ 32 * x.fault.toNat) := by
  have hk := x.kind.code.isLt
  have hi := (statusCode x.io).isLt
  have hs := x.step.isLt
  have hx := (xstateCode x.xs).isLt
  have hr := (BitVec.ofBool x.rspValid).isLt
  have he := x.errno.isLt
  have hf := x.fault.isLt
  apply BitVec.eq_of_toNat_eq
  have app {n k : Nat} (u : BitVec n) (v : BitVec k) : (u ++ v).toNat = u.toNat * 2 ^ k + v.toNat := by
    rw [BitVec.toNat_append, ← Nat.shiftLeft_add_eq_or_of_lt v.isLt, Nat.shiftLeft_eq]
  simp only [XResult.pack, app, BitVec.toNat_ofNat]
  omega

/-! ### The whole command -/

/-- The admission list of the machine is the one the statements use (R331). -/
theorem admissible_iff (decOp : Byte) : admissible decOp = true ↔ admitted decOp := by
  revert decOp; simp only [admitted]; decide +kernel

/-- An admitted transaction whose request lies in its buffer runs its stages. -/
theorem exec_xact {s : State} {msgType : Word} {always : Bool} {decOp decArg : Byte} {off len : Word}
    (ha : admitted decOp) (h1 : 20 ≤ brOf s.req) (h2 : 44 + brOf s.req ≤ s.cap .req) :
    exec (.xact msgType always decOp decArg off len) s
      = finishXact (runXact msgType always decOp decArg off len s) := by
  have hw : window s.params.capReq.bytes s.req = .ok () := window_ok h1 h2
  show execXact msgType always decOp decArg off len s = _
  rw [execXact, admitXact, if_pos ((admissible_iff _).mpr ha), hw]

/-- `FINALIZE` behind a window that passes. -/
theorem exec_finalize {s : State} {b : BufSel} (msgType : Word) (h1 : 20 ≤ brOf (s.buf b))
    (h2 : 44 + brOf (s.buf b) ≤ s.cap b) :
    exec (.finalize b msgType) s
      = .next ((s.setBuf b (finalizeBuffer msgType (s.buf b))).respond (okResponse {})) := by
  show commitBuffer s b (withWindow (s.cap b) (s.buf b) _) = _
  rw [withWindow_ok h1 h2]; rfl

end Sys2Proof.Machine
end

