-- ==== Sys2Proof/Tests/Slice0.lean ====
section
/-! SUPPORT. The model's own tests: the well-formedness checks, written-out command words, one-step tests from the vectors of spec/95_test_vectors.md, and a witness for the hypotheses of each statement. -/

namespace Sys2Proof.Tests

open Sys2Proof Sys2Proof.Machine

/- One theorem after the other: checked side by side, the kernel evaluations below wait in one thread each. -/
set_option Elab.async false

/-! ### Small states -/

/-- A state of two 64-byte buffers. -/
def small (req rsp : Memory) : State := State.resetWith Params.default req rsp

/-- A state whose request buffer has 128 bytes. -/
def large (req : Memory) : State := State.resetWith { Params.default with capReq := ⟨64⟩ } req []

/-- What `INIT` leaves. -/
def fresh : Memory := initBuffer []

/-- What `INIT` leaves, with a bytes-remaining value. -/
def freshBr (br : Nat) : Memory := setField fresh fBytesrem br

/-- The state after, if there is one. -/
def after : StepOutcome → Option State
  | .next t => some t
  | .fault _ => none
  | .refused _ => none

/-- The response after, if there is one. -/
def reply (o : StepOutcome) : Option Response := (after o).bind State.response

/-- A response of status 0. -/
def fine (rdata : Dword) (rbytes : List Byte) (cnt : Word) : Option Response := some ⟨0, rdata, rbytes, cnt, 0⟩

/-- A response that carries a command fault. -/
def faulty (code : Byte) (info : Dword) : Option Response := some ⟨code, info, [], 0, 0⟩

/-- One command and the bytes of `REQ` it leaves in a span. -/
def wrote (i : Instr) (s : State) (a n : Nat) : Option (List Byte) :=
  (after (exec i s)).map fun t => memRead t.req a n

/-! ### Well-formedness: each check refuses an ill-formed term -/

theorem test_wf_setImmBytes : (Instr.setImmBytes .req 0 2 [1, 2, 3]).wellFormed = false
    ∧ (Instr.setImmBytes .req 0 3 [1, 2, 3]).wellFormed = true := by decide

theorem test_wf_setPayBytes : (Instr.setPayBytes .req 0 2 [1]).wellFormed = false
    ∧ (Instr.setPayBytes .req 0 0 []).wellFormed = true := by decide

theorem test_wf_setCksum : (Instr.setCksum .req 16 []).wellFormed = false
    ∧ (Instr.setCksum .req 1 [0]).wellFormed = true := by decide

theorem test_wf_putAuto : (Instr.putAuto .req 0 [7] 14).wellFormed = false
    ∧ (Instr.putAuto .req 1 [7] 14).wellFormed = true := by decide

/-! ### Command words, written out from R98 and the map of R99

`0000000b oooooooo`: seven zero bits, the buffer select, the opcode. -/

/-- A record with no operands. -/
def bare (cw : Half) : Command := ⟨cw, 0, 0, 0, []⟩

theorem test_decode_lifecycle :
    decode (bare 0b0000000_0_00000001) = .ok (.init .req) ∧ decode (bare 0b0000000_1_00000010) = .ok (.clear .rsp) :=
  ⟨rfl, rfl⟩

theorem test_decode_header_getters :
    decode (bare 0b0000000_0_00010000) = .ok (.getSync .req) ∧ decode (bare 0b0000000_1_00010001) = .ok (.getVer .rsp)
    ∧ decode (bare 0b0000000_0_00010010) = .ok (.getFlags .req) ∧ decode (bare 0b0000000_1_00010011) = .ok (.getErrno .rsp)
    ∧ decode (bare 0b0000000_0_00010100) = .ok (.getMsgtype .req)
    ∧ decode (bare 0b0000000_1_00010101) = .ok (.getRegarding .rsp)
    ∧ decode (bare 0b0000000_0_00010110) = .ok (.getRsvd .req) ∧ decode (bare 0b0000000_1_00010111) = .ok (.getCktype .rsp)
    ∧ decode (bare 0b0000000_0_00011000) = .ok (.getImmlen .req)
    ∧ decode (bare 0b0000000_1_00011001) = .ok (.getBytesrem .rsp) :=
  ⟨rfl, rfl, rfl, rfl, rfl, rfl, rfl, rfl, rfl, rfl⟩

/-- Each field takes the low bits of `wdata` and ignores the rest (V2.1, V2.7, V2.9, V2.11, V2.15). -/
theorem test_decode_header_setters :
    let d : Dword := 0xFFEEDDCCBBAA9988
    decode ⟨0b0000000_0_00100000, 0, 0, d, []⟩ = .ok (.setSync .req 0x9988)
    ∧ decode ⟨0b0000000_0_00100001, 0, 0, d, []⟩ = .ok (.setVer .req 0x9988)
    ∧ decode ⟨0b0000000_1_00100010, 0, 0, d, []⟩ = .ok (.setFlags .rsp 0x9988)
    ∧ decode ⟨0b0000000_0_00100011, 0, 0, d, []⟩ = .ok (.setErrno .req 0x9988)
    ∧ decode ⟨0b0000000_0_00100100, 0, 0, d, []⟩ = .ok (.setMsgtype .req 0xBBAA9988)
    ∧ decode ⟨0b0000000_1_00100101, 0, 0, d, []⟩ = .ok (.setRegarding .rsp 0xBBAA9988)
    ∧ decode ⟨0b0000000_0_00100110, 0, 0, d, []⟩ = .ok (.setRsvd .req 0xDDCCBBAA9988)
    ∧ decode ⟨0b0000000_0_00100111, 0, 0, d, []⟩ = .ok (.setCktype .req 0x88)
    ∧ decode ⟨0b0000000_0_00101000, 0, 0, d, []⟩ = .ok (.setImmlen .req 0x88)
    ∧ decode ⟨0b0000000_0_00101001, 0, 0, d, []⟩ = .ok (.setBytesrem .req 0xBBAA9988) :=
  ⟨rfl, rfl, rfl, rfl, rfl, rfl, rfl, rfl, rfl, rfl⟩

theorem test_decode_immediate_setters :
    let d : Dword := 0xFFEEDDCCBBAA9988
    decode ⟨0b0000000_0_00110000, 3, 0, d, []⟩ = .ok (.setImmByte .req 3 0x88)
    ∧ decode ⟨0b0000000_0_00110001, 3, 0, d, []⟩ = .ok (.setImmShort .req 3 0x9988)
    ∧ decode ⟨0b0000000_0_00110010, 3, 0, d, []⟩ = .ok (.setImmInt .req 3 0xBBAA9988)
    ∧ decode ⟨0b0000000_0_00110011, 3, 0, d, []⟩ = .ok (.setImmLong .req 3 0xFFEEDDCCBBAA9988)
    ∧ decode ⟨0b0000000_1_00110100, 3, 0, d, []⟩ = .ok (.setImmFloat .rsp 3 0xBBAA9988)
    ∧ decode ⟨0b0000000_0_00110101, 3, 0, d, []⟩ = .ok (.setImmDouble .req 3 0xFFEEDDCCBBAA9988)
    ∧ decode ⟨0b0000000_0_00110110, 3, 2, d, [8, 9]⟩ = .ok (.setImmBytes .req 3 2 [8, 9]) :=
  ⟨rfl, rfl, rfl, rfl, rfl, rfl, rfl⟩

theorem test_decode_immediate_getters :
    decode ⟨0b0000000_0_00111000, 3, 0, 0, []⟩ = .ok (.getImmByte .req 3)
    ∧ decode ⟨0b0000000_0_00111001, 3, 0, 0, []⟩ = .ok (.getImmShort .req 3)
    ∧ decode ⟨0b0000000_1_00111010, 3, 0, 0, []⟩ = .ok (.getImmInt .rsp 3)
    ∧ decode ⟨0b0000000_0_00111011, 3, 0, 0, []⟩ = .ok (.getImmLong .req 3)
    ∧ decode ⟨0b0000000_0_00111100, 3, 0, 0, []⟩ = .ok (.getImmFloat .req 3)
    ∧ decode ⟨0b0000000_0_00111101, 3, 0, 0, []⟩ = .ok (.getImmDouble .req 3)
    ∧ decode ⟨0b0000000_0_00111110, 3, 7, 0, []⟩ = .ok (.getImmBytes .req 3 7) :=
  ⟨rfl, rfl, rfl, rfl, rfl, rfl, rfl⟩

theorem test_decode_payload_setters :
    let d : Dword := 0xFFEEDDCCBBAA9988
    decode ⟨0b0000000_0_01000000, 3, 0, d, []⟩ = .ok (.setPayByte .req 3 0x88)
    ∧ decode ⟨0b0000000_0_01000001, 3, 0, d, []⟩ = .ok (.setPayShort .req 3 0x9988)
    ∧ decode ⟨0b0000000_0_01000010, 3, 0, d, []⟩ = .ok (.setPayInt .req 3 0xBBAA9988)
    ∧ decode ⟨0b0000000_0_01000011, 3, 0, d, []⟩ = .ok (.setPayLong .req 3 0xFFEEDDCCBBAA9988)
    ∧ decode ⟨0b0000000_0_01000100, 3, 0, d, []⟩ = .ok (.setPayFloat .req 3 0xBBAA9988)
    ∧ decode ⟨0b0000000_1_01000101, 3, 0, d, []⟩ = .ok (.setPayDouble .rsp 3 0xFFEEDDCCBBAA9988)
    ∧ decode ⟨0b0000000_0_01000110, 3, 2, d, [8, 9]⟩ = .ok (.setPayBytes .req 3 2 [8, 9]) :=
  ⟨rfl, rfl, rfl, rfl, rfl, rfl, rfl⟩

theorem test_decode_payload_getters :
    decode ⟨0b0000000_0_01001000, 3, 0, 0, []⟩ = .ok (.getPayByte .req 3)
    ∧ decode ⟨0b0000000_0_01001001, 3, 0, 0, []⟩ = .ok (.getPayShort .req 3)
    ∧ decode ⟨0b0000000_1_01001010, 3, 0, 0, []⟩ = .ok (.getPayInt .rsp 3)
    ∧ decode ⟨0b0000000_0_01001011, 3, 0, 0, []⟩ = .ok (.getPayLong .req 3)
    ∧ decode ⟨0b0000000_0_01001100, 3, 0, 0, []⟩ = .ok (.getPayFloat .req 3)
    ∧ decode ⟨0b0000000_0_01001101, 3, 0, 0, []⟩ = .ok (.getPayDouble .req 3)
    ∧ decode ⟨0b0000000_0_01001110, 3, 7, 0, []⟩ = .ok (.getPayBytes .req 3 7) :=
  ⟨rfl, rfl, rfl, rfl, rfl, rfl, rfl⟩

theorem test_decode_checksum_footer :
    decode (bare 0b0000000_0_01010000) = .ok (.cksumCompute .req)
    ∧ decode (bare 0b0000000_1_01010001) = .ok (.cksumMatch .rsp)
    ∧ decode (bare 0b0000000_1_01010010) = .ok (.getCksum .rsp)
    ∧ decode ⟨0b0000000_0_01010011, 0, 1, 0, [5]⟩ = .ok (.setCksum .req 1 [5])
    ∧ decode (bare 0b0000000_0_01010100) = .ok (.setFooter .req)
    ∧ decode (bare 0b0000000_1_01010101) = .ok (.getFooter .rsp)
    ∧ decode (bare 0b0000000_1_01010110) = .ok (.checkFooter .rsp)
    ∧ decode (bare 0b0000000_0_01010111) = .ok (.msgSize .req) :=
  ⟨rfl, rfl, rfl, rfl, rfl, rfl, rfl, rfl⟩

theorem test_decode_marshalling :
    decode ⟨0b0000000_0_01100000, 0, 1, 0x10E, [7]⟩ = .ok (.putAuto .req 1 [7] 14)
    ∧ decode (bare 0b0000000_1_01100001) = .ok (.getAuto .rsp)
    ∧ decode ⟨0b0000000_1_01100010, 0, 0, 0xF20, []⟩ = .ok (.getString .rsp 0x20) := ⟨rfl, rfl, rfl⟩

/-- The `XACT` operand is packed as in X23: `wdata=0x0020_6201_0000_0100`. -/
theorem test_decode_framing_and_transaction :
    decode ⟨0b0000000_0_01110000, 0, 0, 0x900110000, []⟩ = .ok (.finalize .req 0x00110000)
    ∧ decode (bare 0b0000000_1_01110001) = .ok (.hdrParse .rsp)
    ∧ decode (bare 0b0000000_1_01110010) = .ok (.rspClassify .rsp)
    ∧ decode ⟨0b0000000_0_01110011, 6, 7, 0x0020620100000100, []⟩ = .ok (.xact 0x100 true 0x62 32 6 7) :=
  ⟨rfl, rfl, rfl, rfl⟩

/-- The words of V8, and one of the reserved bits at a time. -/
theorem test_decode_undefined : ∀ cw ∈ [0x0000#16, 0x0003, 0x000F, 0x001A, 0x002A, 0x0037, 0x003F, 0x0047, 0x004F,
    0x0058, 0x0063, 0x0074, 0x00FF, 0x0201, 0x0401, 0x0801, 0x1001, 0x2001, 0x4001, 0x8001, 0x0173],
    decode (bare cw) = .error .illegalOp := by
  intro cw h
  simp only [List.mem_cons, List.not_mem_nil, or_false] at h
  rcases h with rfl | rfl | rfl | rfl | rfl | rfl | rfl | rfl | rfl | rfl | rfl | rfl | rfl | rfl | rfl | rfl | rfl
    | rfl | rfl | rfl | rfl <;> rfl

theorem test_encode_words :
    encode (.setPayBytes .rsp 5 2 [1, 2]) = ⟨0x0146, 5, 2, 0, [1, 2]⟩
    ∧ encode (.setRsvd .req 0x060504030201) = ⟨0x0026, 0, 0, 0x060504030201, []⟩
    ∧ encode (.xact 0x100 true 0x62 32 6 7) = ⟨0x0073, 6, 7, 0x0020620100000100, []⟩ := by decide

theorem test_table_word :
    decodeTableWord 16 0x0019 = some (.getBytesrem .req) ∧ decodeTableWord 16 0x0073 = some (.xact 0 false 0 0 0 0)
    ∧ decodeTableWord 16 0x0036 = some (.setImmBytes .req 0 0 []) ∧ decodeTableWord 16 0x0074 = none := by decide

/-- The presented command is the first that runs after reset (V1.12: `MSG_SIZE` of a zero buffer is 44). -/
theorem test_withFetchWord : reply (step (State.reset.withFetchWord 16 0x0057)) = fine 44 [] 0 := by decide

theorem test_memory_canonical :
    writeByte (writeByte [] 3 7) 1 5 = [(1, 5), (3, 7)] ∧ writeByte [(1, 5), (3, 7)] 3 0 = [(1, 5)]
    ∧ memRead (memWrite [] 62 [1, 2]) 61 3 = [0, 1, 2] := by decide

/-! ### One step of each family, from the vectors -/

/-- V1.1 with a buffer of `AA` bytes: the header, the footer, and none of the old bytes. -/
theorem test_init : wrote (.init .req) (small (memWrite [] 0 (List.replicate 64 0xAA)) []) 0 4 = some [0xC1, 0xC0, 0x00, 0x11]
    ∧ wrote (.init .req) (small (memWrite [] 0 (List.replicate 64 0xAA)) []) 39 5 = some [0, 0x14, 0, 0, 0]
    ∧ wrote (.init .req) (small (memWrite [] 0 (List.replicate 64 0xAA)) []) 59 5 = some [0, 0xC5, 0xC4, 0xC3, 0xC2] := by
  decide +kernel

theorem test_clear : (after (exec (.clear .rsp) (small fresh fresh))).map (fun t => (t.rsp, t.req == fresh))
    = some ([], true) := by decide

/-- V1.2 to V1.4. -/
theorem test_header_getters : reply (exec (.getSync .req) (small fresh [])) = fine 0xC0C1 [] 0
    ∧ reply (exec (.getVer .req) (small fresh [])) = fine 0x1100 [] 0
    ∧ reply (exec (.getBytesrem .req) (small fresh [])) = fine 0x14 [] 0 := by decide

/-- V2.5, V2.9, V2.26. -/
theorem test_header_setters : wrote (.setMsgtype .req 0x00110110) (small fresh []) 8 4 = some [0x10, 0x01, 0x11, 0x00]
    ∧ wrote (.setRsvd .req 0x060504030201) (small fresh []) 16 7 = some [1, 2, 3, 4, 5, 6, 0]
    ∧ wrote (.setSync .req 0xC1C0) (small fresh []) 0 2 = some [0xC0, 0xC1] := by decide +kernel

/-- V2.13 to V2.15. -/
theorem test_set_immlen : wrote (.setImmlen .req 16) (small fresh []) 23 1 = some [0x10]
    ∧ reply (exec (.setImmlen .req 17) (small fresh [])) = faulty 4 17 := by decide +kernel

/-- V2.16 to V2.20. -/
theorem test_set_bytesrem : wrote (.setBytesrem .req 19) (small fresh []) 40 4 = some [0x14, 0, 0, 0]
    ∧ wrote (.setBytesrem .req 0xFFFFFFFF) (small fresh []) 40 4 = some [0xFF, 0xFF, 0xFF, 0xFF]
    ∧ reply (exec (.msgSize .req) (small (freshBr 0xFFFFFFFF) [])) = fine 0x10000002B [] 0 := by decide +kernel

/-- V3.1 and V3.5: a value that fits, and one truncated at the end of the region. -/
theorem test_set_imm_int : wrote (.setImmInt .req 0 100000) (small fresh []) 23 6 = some [4, 0xA0, 0x86, 0x01, 0x00, 0]
    ∧ wrote (.setImmInt .req 14 0xAABBCCDD) (small fresh []) 37 4 = some [0, 0xDD, 0xCC, 0x14]
    ∧ reply (exec (.setImmInt .req 14 0xAABBCCDD) (small fresh [])) = fine 0 [] 2 := by decide +kernel

/-- V3.12, V3.13, V3.29. -/
theorem test_set_imm_edges : reply (exec (.setImmByte .req 16 0x55) (small fresh [])) = fine 0 [] 0
    ∧ wrote (.setImmByte .req 16 0x55) (small fresh []) 23 1 = some [0x10]
    ∧ reply (exec (.setImmByte .req 17 0x55) (small fresh [])) = faulty 2 17
    ∧ reply (exec (.setImmInt .req 0xFFFFFFFF 1) (small fresh [])) = faulty 2 0xFFFFFFFF := by decide +kernel

/-- V3.2, V3.3, V3.14, V3.18, V3.30. -/
theorem test_get_imm :
    let m := memWrite fresh 24 [0xA0, 0x86, 0x01, 0x00]
    reply (exec (.getImmInt .req 0) (small m [])) = fine 0x000186A0 [] 0
    ∧ reply (exec (.getImmShort .req 1) (small m [])) = fine 0x0186 [] 0
    ∧ reply (exec (.getImmByte .req 16) (small m [])) = faulty 2 17
    ∧ reply (exec (.getImmBytes .req 16 0) (small m [])) = fine 0 [] 0
    ∧ reply (exec (.getImmInt .req 0xFFFFFFFD) (small m [])) = faulty 2 0x100000001 := by decide +kernel

/-- V4.1, and R213's bound at its edge: a value that ends at the capacity, and one byte beyond. -/
theorem test_set_pay_int : wrote (.setPayInt .req 0 0xDEADBEEF) (large fresh) 40 9
      = some [24, 0, 0, 0, 0xEF, 0xBE, 0xAD, 0xDE, 0]
    ∧ reply (exec (.setPayInt .req 16 0) (small fresh [])) = fine 0 [] 4
    ∧ reply (exec (.setPayInt .req 17 0) (small fresh [])) = faulty 1 65 := by decide +kernel

/-- V4.2 to V4.5, and the three tests of R214 in order. -/
theorem test_get_pay :
    let m := memWrite (freshBr 24) 44 [0xEF, 0xBE, 0xAD, 0xDE]
    reply (exec (.getPayInt .req 0) (large m)) = fine 0xDEADBEEF [] 0
    ∧ reply (exec (.getPayShort .req 2) (large m)) = fine 0xDEAD [] 0
    ∧ reply (exec (.getPayByte .req 4) (large m)) = faulty 2 5
    ∧ reply (exec (.getPayByte .rsp 0) (small m [])) = faulty 3 0
    ∧ reply (exec (.getPayBytes .rsp 0 21) (small m (freshBr 41))) = faulty 1 65 := by decide +kernel

/-- V5: under type 1 the checksum of the fresh message does not match until it is computed; sixteen bytes
are stored, and the footer offsets follow bytes-remaining. -/
theorem test_checksum :
    let m := setField fresh fCktype 1
    reply (exec (.cksumMatch .req) (small m [])) = fine 0 [] 0
    ∧ (after (exec (.cksumCompute .req) (small m []))).bind (fun t => reply (exec (.cksumMatch .req) t)) = fine 1 [] 0
    ∧ reply (exec (.setCksum .req 15 (List.replicate 15 0)) (small m [])) = faulty 4 15
    ∧ reply (exec (.cksumCompute .req) (small (freshBr 21) [])) = faulty 1 65 := by decide +kernel

/-- V1.5, V1.6, V1.13, V2.23. -/
theorem test_footer : reply (exec (.getFooter .req) (small fresh [])) = fine 0xC2C3C4C5 [] 0
    ∧ reply (exec (.checkFooter .req) (small fresh [])) = fine 1 [] 0
    ∧ reply (exec (.getFooter .req) (small [] [])) = faulty 3 0
    ∧ wrote (.setFooter .req) (large (freshBr 84)) 123 5 = some [0, 0xC5, 0xC4, 0xC3, 0xC2] := by decide +kernel

/-- R246's first and third check values. -/
theorem test_md5 :
    md5 [] = [0xD4, 0x1D, 0x8C, 0xD9, 0x8F, 0x00, 0xB2, 0x04, 0xE9, 0x80, 0x09, 0x98, 0xEC, 0xF8, 0x42, 0x7E]
    ∧ md5 [0x61, 0x62, 0x63]
      = [0x90, 0x01, 0x50, 0x98, 0x3C, 0xD2, 0x4F, 0xB0, 0xD6, 0x96, 0x3F, 0x7D, 0x28, 0xE1, 0x7F, 0x72] := by
  decide +kernel

/-- The message of P2 (59 bytes before its checksum), whose MD5 the spec prints. -/
theorem test_md5_of_a_message :
    md5 ([0xC1, 0xC0, 0x00, 0x11, 0, 0, 0, 0, 0x12, 0x00, 0x60, 0x00] ++ List.replicate 10 0 ++ [1]
      ++ List.replicate 17 0 ++ [0x23, 0, 0, 0]
      ++ [0x01, 0x50, 0x0D, 0xA0, 0xA1, 0xA2, 0xA3, 0xA4, 0xA5, 0xA6, 0xA7, 0xA8, 0xA9, 0xAA, 0xAB])
    = [0x3F, 0x0B, 0xA0, 0x7C, 0xA5, 0x95, 0xD5, 0x7F, 0x04, 0xF7, 0xD6, 0x93, 0x5F, 0x26, 0x17, 0x40] := by
  decide +kernel

/-- V6: fourteen bytes go to the immediate data, fifteen to the payload; a threshold above 16 is refused. -/
theorem test_put_auto :
    reply (exec (.putAuto .req 14 (List.replicate 14 7) 14) (large fresh)) = fine 0 [] 14
    ∧ reply (exec (.putAuto .req 15 (List.replicate 15 7) 14) (large fresh)) = fine 1 [] 15
    ∧ reply (exec (.putAuto .req 1 [1] 17) (large fresh)) = faulty 4 17 := by decide +kernel

/-- V6.18 to V6.20. -/
theorem test_get_auto :
    reply (exec (.getAuto .rsp) (small [] [(23, 17), (40, 20)])) = faulty 4 17
    ∧ reply (exec (.getAuto .rsp) (small [] [(40, 19)])) = faulty 3 19
    ∧ reply (exec (.getAuto .rsp) (small [] [(40, 41)])) = faulty 1 65
    ∧ reply (exec (.getAuto .rsp) (small [] [(23, 2), (24, 5)])) = fine 0 [5, 0] 2 := by decide +kernel

/-- V6.12 and V6.15: the string stops at the first byte below the threshold, compared unsigned. -/
theorem test_get_string :
    let m := memWrite fresh 23 [10, 0x55, 0x53, 0x42, 0x32, 0, 0x34, 0x30, 0x30, 0x30, 0]
    reply (exec (.getString .req 32) (small m [])) = fine 0 [0x55, 0x53, 0x42, 0x32] 4
    ∧ reply (exec (.getString .req 0xFF) (small m [])) = fine 0 [] 0 := by decide +kernel

/-- V1.18 and V7.1. -/
theorem test_finalize :
    (after (exec (.finalize .req 1) (small [] []))).map (fun t => (t.response, t.req)) = some (faulty 3 0, [])
    ∧ wrote (.finalize .req 0x00110000) (small fresh []) 8 4 = some [0, 0, 0x11, 0] := by decide +kernel

/-- V1.9, V1.17 and the `0x00030001` of P2. -/
theorem test_parse_and_classify :
    reply (exec (.hdrParse .req) (small fresh [])) = fine 0x0000000F00000014 [] 20
    ∧ reply (exec (.hdrParse .req) (small [] [])) = fine 0x0000000800000000 [] 0
    ∧ reply (exec (.rspClassify .rsp) (small [] [(4, 9), (6, 3)])) = fine 0x00030001 [] 0 := by decide +kernel

/-! ### Transactions, with scripted answers -/

/-- The header of the answer `A0` of Part 3, with its flags' low byte and its bytes-remaining. -/
def header (flags br : Byte) : List Byte :=
  [0xC1, 0xC0, 0x00, 0x11, flags, 0, 3, 0, 0x00, 0x00, 0x11, 0x00] ++ List.replicate 11 0
    ++ [4, 0xA0, 0x86, 0x01, 0x00] ++ List.replicate 12 0 ++ [br, 0, 0, 0]

/-- The remainder of `A0`, with its last byte. -/
def remainder (last : Byte) : List Byte := List.replicate 16 0 ++ [0xC5, 0xC4, 0xC3, last]

/-- A fresh request and a script of answers. -/
def scripted (answers : List TransportAnswer) : State := { small fresh [(50, 0x77)] with answers := answers }

/-- A successful send. -/
def sent : TransportAnswer := .answered .success []

/-- What a transaction with `always = 1` and this decode command ends in: `xres`, `rdata`, `xstate`. -/
def outcome (always : Bool) (decOp : Byte) (answers : List TransportAnswer) : Option (Word48 × Dword × XState) :=
  (after (exec (.xact 0x00110000 always decOp 0 0 0) (scripted answers))).bind fun t =>
    t.response.map fun r => (r.xres, r.rdata, t.xstate)

/-- X1, X2, X15. -/
theorem test_xact_success :
    outcome false 0 [sent] = some (0x000000006400, 0, .success)
    ∧ outcome true 0x3A [sent, .answered .success (header 1 20), .answered .success (remainder 0xC2)]
        = some (0x00000000E800, 0x000186A0, .success) := by decide +kernel

/-- X4, X7, X8. -/
theorem test_xact_io_failure :
    outcome true 0 [.answered .pipeError []] = some (0x000000007371, 0, .failed)
    ∧ outcome true 0 [sent, .answered .success (header 1 19)] = some (0x000000007661, 0, .failed)
    ∧ outcome true 0 [sent, .answered .success (header 1 21)] = some (0x000000007641, 0, .failed) := by decide +kernel

/-- X11, X12, X14: framing error, protocol failure (errno 3), decode fault. -/
theorem test_xact_judgement :
    outcome true 0x3A [sent, .answered .success (header 1 20), .answered .success (remainder 0xC3)]
      = some (0x00000000F603, 0, .failed)
    ∧ outcome true 0x3A [sent, .answered .success (header 9 20), .answered .success (remainder 0xC2)]
      = some (0x00000003F702, 0, .failed)
    ∧ outcome true 0x4A [sent, .answered .success (header 1 20), .answered .success (remainder 0xC2)]
      = some (0x00020000F804, 0, .failed) := by decide +kernel

/-- X19 to X22: nothing is sent and nothing is written. -/
theorem test_xact_not_admitted :
    (after (exec (.xact 1 true 0x32 0 0 0) (small fresh []))).map (fun t => (t.response, t.req == fresh, t.calls))
      = some (faulty 5 0, true, [])
    ∧ (after (exec (.xact 1 true 0 0 0 0) (small (freshBr 21) []))).map (fun t => (t.response, t.calls))
      = some (faulty 1 65, []) := by decide +kernel

/-- spec/93 U44: a transport that never answers leaves the machine stuck. -/
theorem test_xact_silent : exec (.xact 1 true 0 0 0 0) (scripted [.silent]) = .fault .transportNeverAnswers := rfl

/-- R342: the calls of a whole transaction, newest first. -/
theorem test_xact_calls :
    (after (exec (.xact 0x00110000 true 0 0 0 0)
      (scripted [sent, .answered .success (header 1 20), .answered .success (remainder 0xC2)]))).map
      (fun t => t.calls.take 2) = some [.receiveBytes 44 20, .receiveBytes 0 44] := by decide +kernel

/-- R103: `RESET_PAIR`. -/
theorem test_reset_pair : (after (execSeq resetPair (small [] fresh))).map (fun t => (t.req == fresh, t.rsp))
    = some (true, []) := by decide +kernel

/-- P1: setting the integration time is answered at step 4 with no response; getting it, from the answer
`A0`, gives 100000. P1 takes 0x00110010 for the message type that R96 leaves open. -/
theorem test_integration_time :
    (after (execSeq ({ setIntegrationTime 100000 with msgType := 0x00110010 } : Variant).transaction { small [] [] with answers := [sent] })).bind State.response
      = some ⟨0, 0, [], 0, 0x000000006400⟩
    ∧ (after (execSeq getIntegrationTime.transaction { small [] [] with
        answers := [sent, .answered .success (header 1 20), .answered .success (remainder 0xC2)] })).bind State.response
      = some ⟨0, 0x000186A0, [], 0, 0x00000000E800⟩ := by
  decide +kernel

/-- A variant with two response fields, read after `XACT` (R280): the low and the high half of `A0`'s value. -/
def halves (always : Bool) : Variant :=
  { msgType := 0x00110000, always := always, encoding := [],
    decoding := .afterXact [.getImmShort .rsp 0, .getImmShort .rsp 2] }

/-- The `rdata` of each response of a transaction of a variant. -/
def fields (v : Variant) (answers : List TransportAnswer) : Option (List Dword) :=
  match v.run { small [] fresh with answers := answers } with
  | .next (_, rs) => some (rs.map (·.rdata))
  | .fault _ => none
  | .refused _ => none

/-- R280, R339: both fields of the answer `A0` are read after `Success`. R283, R416: no read after a footer
that is wrong (P3) or when no response was awaited (P6). -/
theorem test_variant_reads_after_xact :
    fields (halves true) [sent, .answered .success (header 1 20), .answered .success (remainder 0xC2)]
      = some [0, 0x86A0, 0x0001]
    ∧ fields (halves true) [sent, .answered .success (header 1 20), .answered .success (remainder 0xC3)] = some [0]
    ∧ fields (halves false) [sent] = some [0] := by decide +kernel

/-- R280: what a variant may not hold. An encode command on `RSP` or that only reads, and a decode command that
writes, reads `REQ`, or that `XACT` does not admit. -/
theorem test_variant_wellFormed :
    (setIntegrationTime 5).wellFormed = true ∧ getIntegrationTime.wellFormed = true
    ∧ (halves true).wellFormed = true
    ∧ ({ halves true with encoding := [.setImmInt .rsp 0 5] } : Variant).wellFormed = false
    ∧ ({ halves true with encoding := [.getImmInt .req 0] } : Variant).wellFormed = false
    ∧ ({ halves true with decoding := .afterXact [.setImmInt .rsp 0 5] } : Variant).wellFormed = false
    ∧ ({ halves true with decoding := .afterXact [.getImmInt .req 0] } : Variant).wellFormed = false
    ∧ ({ halves true with decoding := .inXact 0x32 0 0 0 } : Variant).wellFormed = false := by decide +kernel

/-! ### Witnesses: what meets the hypotheses of each statement

Each theorem names the statement; where a clause has a range, the state or operand is at its boundary. -/

/-- The command ends and answers with this status. -/
def ends (o : StepOutcome) (status : Byte) : Bool :=
  match o with
  | .next t => match t.response with
    | some r => r.status == status
    | none => false
  | .fault _ => false
  | .refused _ => false

theorem test_witness_DecodeOfEncodeIsInstr : (Instr.setPayBytes .rsp 5 2 [1, 2]).wellFormed = true := by decide

theorem test_witness_DecodedCommandsAreWellFormed :
    ∃ i, decode ⟨0x0146, 5, 2, 9, [1, 2]⟩ = .ok i := ⟨_, rfl⟩

/-- The edges of the gaps of the map, and of the commands beside them. -/
theorem test_witness_UndefinedWordsFaultIllegalOp :
    (∀ cw ∈ [0x0000#16, 0x0003, 0x000F, 0x001A, 0x001F, 0x002A, 0x002F, 0x0037, 0x013F, 0x0047, 0x004F, 0x0058, 0x005F,
      0x0063, 0x006F, 0x0074, 0x00FF, 0x0201, 0xFE01, 0x0173], undefinedWord cw)
    ∧ ∀ cw ∈ [0x0001#16, 0x0102, 0x0010, 0x0019, 0x0020, 0x0029, 0x0030, 0x0136, 0x0038, 0x003E, 0x0046, 0x0048, 0x004E,
      0x0050, 0x0157, 0x0060, 0x0062, 0x0070, 0x0072, 0x0172, 0x0073], ¬ undefinedWord cw := by
  simp [undefinedWord]

theorem test_witness_StepRunsDecodedCommand :
    ((small fresh []).present (bare 0x0110)).port = bare 0x0110 :: [] ∧ decode (bare 0x0110) = .ok (.getSync .rsp) :=
  ⟨rfl, rfl⟩

theorem test_witness_StepWithoutAnInstruction :
    State.reset.port = [] ∧ decode ⟨0x0053, 0, 16, 0, []⟩ = .error .wbytesLength := ⟨rfl, rfl⟩

/-- A byte listed at the last address of a buffer of the least capacity. -/
theorem test_witness_ResetMeetsInvariant :
    Memory.wf [(0, 1), (63, 5)] ∧ Memory.within [(0, 1), (63, 5)] Params.default.capReq.bytes := by decide

theorem test_witness_StepKeepsInvariant :
    ((small [(63, 5)] fresh).present (bare 0x0101)).Inv
    ∧ ends (step ((small [(63, 5)] fresh).present (bare 0x0101))) 0 = true := by decide +kernel

theorem test_witness_FaultedCommandChangesNothing : ends (exec (.setImmlen .req 17) (small fresh [])) 4 = true := by
  decide

theorem test_witness_EveryCommandAnswers :
    (classOf (.getSync .req)).1 ≠ .transaction ∧ ends (exec (.getSync .req) (small fresh [])) 0 = true
    ∧ ends (exec (.setImmlen .req 17) (small fresh [])) 4 = true := by decide

theorem test_witness_ReadCommandsChangeNoState : (classOf (.getPayBytes .rsp 0 0)).1 = .read := by decide

theorem test_witness_OnlyXactMovesSequencer :
    (classOf (.setFooter .req)).2 = some .req ∧ ends (exec (.setFooter .req) (small fresh [])) 0 = true := by
  decide +kernel

theorem test_witness_RepeatedCommandChangesNothing :
    (small fresh []).Inv ∧ (Instr.cksumCompute .req).wellFormed = true
    ∧ (classOf (.cksumCompute .req)).1 ≠ .transaction ∧ ends (exec (.cksumCompute .req) (small fresh [])) 0 = true := by
  decide +kernel

/-- A message at both bounds of R30. -/
theorem test_witness_BuildingCommandsKeepMessageLegal :
    (Instr.setImmBytes .req 0 1 [7]).wellFormed = true ∧ classOf (.setImmBytes .req 0 1 [7]) = (.build, some .req)
    ∧ builtMessage ((small (setField fresh fImmlen 16) []).buf .req)
    ∧ ends (exec (.setImmBytes .req 0 1 [7]) (small (setField fresh fImmlen 16) [])) 0 = true := by decide +kernel

/-- The last offset that an immediate setter takes, and its neighbour: the clauses of ImmSettersTruncate and
of CommandsThatNeverFault. -/
theorem test_witness_immediate_offsets : (16 : Word).toNat ≤ 16 ∧ 16 < (17 : Word).toNat
    ∧ (∃ t, exec (.setImmShort .req 16 7) (small fresh []) = .next t) :=
  ⟨by decide, by decide, ⟨_, rfl⟩⟩

theorem test_witness_SetImmlenRefusesAboveSixteen : (16 : Byte).toNat ≤ 16 ∧ 16 < (17 : Byte).toNat := by decide

/-- Getters at the last offset they take, and one beyond. -/
theorem test_witness_ImmGettersStayInRegion :
    (12 : Word).toNat + 4 ≤ 16 ∧ 16 < (13 : Word).toNat + 4
    ∧ (16 : Word).toNat + (0 : Word).toNat ≤ 16 ∧ 16 < (16 : Word).toNat + (1 : Word).toNat := by decide

/-- A value that just fits, and one truncated. -/
theorem test_witness_ImmSetThenGet : (8 : Word).toNat + 8 ≤ 16 ∧ ((9 : Word).toNat ≤ 16 ∧ 16 < (9 : Word).toNat + 8)
    ∧ [1#8, 2].length = (2 : Word).toNat := by decide

/-- Spans that end at the capacity, and one byte beyond. -/
theorem test_witness_PaySettersNeverTruncate :
    44 + (16 : Word).toNat + 4 ≤ (small fresh []).cap .req ∧ (small fresh []).cap .req < 44 + (17 : Word).toNat + 4
    ∧ [1#8, 2].length = (2 : Word).toNat := by decide

/-- The four clauses of R214: bytes-remaining 19; payload of 20 read one byte too far; payload of 21 in a
buffer that holds 20; payload of 20 read to its end. -/
theorem test_witness_PayGettersTestInOrder :
    brOf ((small (freshBr 19) []).buf .req) < 20
    ∧ (20 ≤ brOf ((small (freshBr 40) []).buf .req) ∧ brOf ((small (freshBr 40) []).buf .req) - 20 < (17 : Word).toNat + 4)
    ∧ (20 ≤ brOf ((small (freshBr 41) []).buf .req) ∧ (17 : Word).toNat + 4 ≤ brOf ((small (freshBr 41) []).buf .req) - 20
      ∧ (small (freshBr 41) []).cap .req < 44 + (17 : Word).toNat + 4)
    ∧ (20 ≤ brOf ((small (freshBr 40) []).buf .req) ∧ (16 : Word).toNat + 4 ≤ brOf ((small (freshBr 40) []).buf .req) - 20
      ∧ 44 + (16 : Word).toNat + 4 ≤ (small (freshBr 40) []).cap .req) := by decide +kernel

theorem test_witness_PaySetThenGet : 44 + (12 : Word).toNat + 8 ≤ (small [] []).cap .rsp := by decide

/-- The two faults and the pass of `Window(B)`: bytes-remaining 19, 21 and 20 in a 64-byte buffer. These are
the clauses of WindowFaultsInOrder, CksumComputeWritesExpected, CksumMatchCompares, ChecksumAndFooterReads,
SetCksumWritesBytes, SetFooterWritesPattern, FinalizeWritesThreeSpans and FinalizeEqualsExpansion. -/
theorem test_witness_window :
    brOf ((small (freshBr 19) []).buf .req) < 20
    ∧ (20 ≤ brOf ((small (freshBr 21) []).buf .req) ∧ (small (freshBr 21) []).cap .req < 44 + brOf ((small (freshBr 21) []).buf .req))
    ∧ windowPasses (small (freshBr 20) []) .req ∧ windowPasses (small [] (freshBr 20)) .rsp := by decide +kernel

/-- A window that a buffer fills, under checksum type 1. -/
theorem test_witness_ComputedChecksumAndFooterVerify :
    windowPasses (large (setField (freshBr 84) fCktype 1)) .req ∧ windowPasses (small fresh []) .req := by decide +kernel

theorem test_witness_SetCksumWritesBytes :
    ((List.replicate 15 0#8).length = (15 : Word).toNat ∧ (15 : Word).toNat ≠ 16)
    ∧ ((List.replicate 16 0#8).length = (16 : Word).toNat ∧ (16 : Word).toNat = 16) := by decide

/-- The four clauses of R285: a threshold of 17; sixteen bytes at threshold 16; twenty bytes, which fill the
buffer; twenty-one bytes. -/
theorem test_witness_PutAutoChoosesPath :
    16 < (17 : Byte).toNat
    ∧ ((List.replicate 16 7#8).length = (16 : Word).toNat ∧ (16 : Byte).toNat ≤ 16 ∧ (16 : Word).toNat ≤ (16 : Byte).toNat)
    ∧ ((List.replicate 20 7#8).length = (20 : Word).toNat ∧ (16 : Byte).toNat < (20 : Word).toNat
      ∧ 44 + (20 : Word).toNat ≤ (small [] []).cap .req)
    ∧ ((List.replicate 21 7#8).length = (21 : Word).toNat ∧ (small [] []).cap .req < 44 + (21 : Word).toNat) := by decide

/-- The clauses of R288: sixteen immediate bytes in use; none and the payload that fills the buffer; seventeen;
bytes-remaining 19; a payload one byte too long. -/
theorem test_witness_GetAutoPrefersImmediate :
    (0 < ((small [(23, 16)] []).byte .req 23).toNat ∧ ((small [(23, 16)] []).byte .req 23).toNat ≤ 16)
    ∧ (((small (freshBr 40) []).byte .req 23).toNat = 0 ∧ 20 ≤ brOf ((small (freshBr 40) []).buf .req)
      ∧ 44 + (brOf ((small (freshBr 40) []).buf .req) - 20) ≤ (small (freshBr 40) []).cap .req)
    ∧ 16 < ((small [(23, 17)] []).byte .req 23).toNat
    ∧ (((small [(40, 19)] []).byte .req 23).toNat = 0 ∧ brOf ((small [(40, 19)] []).buf .req) < 20)
    ∧ (((small [(40, 41)] []).byte .req 23).toNat = 0 ∧ 20 ≤ brOf ((small [(40, 41)] []).buf .req)
      ∧ (small [(40, 41)] []).cap .req < 44 + (brOf ((small [(40, 41)] []).buf .req) - 20)) := by decide +kernel

/-- The same selections for `GET_STRING`, on the immediate path and on the payload path. -/
theorem test_witness_GetStringStopsAtLowByte :
    autoSelected .req (small [(23, 2), (24, 0x41)] []) 0 [0x41, 0]
    ∧ autoSelected .req (small (freshBr 22) []) 1 (memRead (freshBr 22) 44 2) := by
  simp only [autoSelected]; decide +kernel

/-- Both paths of R285, at the edge of the threshold and of the capacity. -/
theorem test_witness_AutoRoundTrip :
    ((List.replicate 16 7#8).length = (16 : Word).toNat ∧ 1 ≤ (16 : Word).toNat ∧ (16 : Byte).toNat ≤ 16
      ∧ 44 + (16 : Word).toNat ≤ (small [] []).cap .req)
    ∧ ((List.replicate 20 7#8).length = (20 : Word).toNat ∧ 44 + (20 : Word).toNat ≤ (small [] []).cap .req) := by decide

theorem test_witness_RspClassifyReports : (small [] []).params.flags = FlagPositions.default := by decide

/-- The edges of R331's list. -/
theorem test_witness_admitted :
    (∀ op ∈ [0x00#8, 0x10, 0x19, 0x38, 0x3E, 0x48, 0x4E, 0x51, 0x52, 0x55, 0x57, 0x61, 0x62, 0x71, 0x72], admitted op)
    ∧ ∀ op ∈ [0x01#8, 0x0F, 0x1A, 0x20, 0x37, 0x3F, 0x47, 0x4F, 0x50, 0x53, 0x54, 0x58, 0x60, 0x63, 0x70, 0x73, 0xFF],
        ¬ admitted op := by
  simp [admitted]

theorem test_witness_XactAdmissionFaults :
    admitted 0 ∧ ¬ admitted 0x32 ∧ brOf ((small (freshBr 19) []).buf .req) < 20
    ∧ (20 ≤ brOf ((small (freshBr 21) []).buf .req) ∧ (small (freshBr 21) []).cap .req < 44 + brOf ((small (freshBr 21) []).buf .req)) := by
  simp only [admitted]; decide +kernel

/-- Scripts that end in success and in failure. -/
theorem test_witness_XactEndsSuccessOrFailed :
    admitted 0 ∧ windowPasses (scripted [sent]) .req
    ∧ (∀ a ∈ (scripted [sent]).answers.take 3, a ≠ .silent)
    ∧ (∀ a ∈ (scripted [.answered .timeout []]).answers.take 3, a ≠ .silent) := by
  simp only [admitted]; decide +kernel

theorem test_witness_OnlySilentTransportStops :
    exec (.xact 1 true 0 0 0 0) (scripted [sent, .answered .success (header 1 20), .silent])
      = .fault .transportNeverAnswers := by
  have h : (match exec (.xact 1 true 0 0 0 0) (scripted [sent, .answered .success (header 1 20), .silent]) with
      | .fault .transportNeverAnswers => true
      | .next _ => false
      | .refused _ => false) = true := by decide +kernel
  revert h
  split <;> simp_all

theorem test_witness_XactSendFailureLeavesResponseAlone :
    admitted 0x3A ∧ windowPasses (scripted [.answered .pipeError []]) .req
    ∧ (scripted [.answered .pipeError []]).answers = .answered .pipeError [] :: [] ∧ TransportStatus.pipeError ≠ .success := by
  simp only [admitted]; decide +kernel

theorem test_witness_XactWithoutResponse :
    admitted 0x3A ∧ windowPasses (scripted [sent]) .req ∧ (scripted [sent]).answers = .answered .success [] :: []
    ∧ ¬ awaitsResponse false (scripted [sent]) := by
  simp only [admitted, awaitsResponse]; decide +kernel

/-- A failed receive (X5) and a success one byte short (X6). -/
theorem test_witness_XactHeaderFailure :
    admitted 0x3A ∧ windowPasses (scripted []) .req ∧ awaitsResponse true (scripted [])
    ∧ (scripted [sent, .answered .timeout [1]]).answers = .answered .success [] :: .answered .timeout [1] :: []
    ∧ TransportStatus.timeout ≠ .success ∧ ((header 1 20).take 43).length < 44 := by
  simp only [admitted, awaitsResponse]; decide +kernel

/-- A response is awaited for the flag as well as for `always` (R334). -/
theorem test_witness_awaited_by_flag :
    awaitsResponse false { scripted [] with req := setField fresh fFlags 4 } := by
  simp only [awaitsResponse]; decide +kernel

/-- Bytes-remaining 19 and 21 end at once (X7, X8); with 20 a receive of 19 bytes is short (X10). -/
theorem test_witness_XactRemainderFailure :
    44 ≤ (header 1 20).length ∧ headerBr (header 1 19) < 20
    ∧ (scripted []).cap .rsp < 44 + headerBr (header 1 21)
    ∧ (20 ≤ headerBr (header 1 20) ∧ 44 + headerBr (header 1 20) ≤ (scripted []).cap .rsp
      ∧ (List.replicate 19 0#8).length < headerBr (header 1 20)) := by decide +kernel

/-- A whole response that fills the buffer, decoded or not, with a good and a bad footer, with NACK. -/
theorem test_witness_XactDeliversResponse :
    admitted 0x3A ∧ admitted 0 ∧ windowPasses (scripted []) .req ∧ awaitsResponse true (scripted [])
    ∧ (scripted [sent, .answered .success (header 9 20), .answered .success (remainder 0xC3)]).answers
      = .answered .success [] :: .answered .success (header 9 20) :: .answered .success (remainder 0xC3) :: []
    ∧ 44 ≤ (header 9 20).length ∧ 20 ≤ headerBr (header 9 20) ∧ 44 + headerBr (header 9 20) ≤ (scripted []).cap .rsp
    ∧ headerBr (header 9 20) ≤ (remainder 0xC3).length := by
  simp only [admitted, awaitsResponse]; decide +kernel

/-- The receives after a send (newest first), for a script. -/
def received (decOp : Byte) (answers : List TransportAnswer) : Option (List (Nat × Nat)) :=
  (after (exec (.xact 1 true decOp 0 0 0) (scripted answers))).map fun t => t.calls.filterMap fun
    | .receiveBytes off count => some (off, count)
    | .sendBytes _ => none

/-- Every clause is reached: not admitted, a failed send, a failed header, `BR(RSP)` out of range,
a failed remainder, a whole response that fills the buffer. -/
theorem test_witness_XactCallsTransportInOrder :
    received 0x32 [sent] = some [] ∧ received 0 [.answered .timeout []] = some []
    ∧ received 0 [sent, .answered .timeout [1]] = some [(0, 44)]
    ∧ received 0 [sent, .answered .success (header 1 19)] = some [(0, 44)]
    ∧ received 0 [sent, .answered .success (header 1 20), .answered .timeout []] = some [(44, 20), (0, 44)]
    ∧ received 0 [sent, .answered .success (header 1 20), .answered .success (remainder 0xC2)]
        = some [(44, 20), (0, 44)] := by
  decide +kernel

theorem test_witness_DecodeStepIsTheCommand : admitted 0x72 ∧ (0x72 : Byte) ≠ 0 := by simp only [admitted]; decide

/-- Which way a stage went. -/
def way : XStage → Option (Bool × XState)
  | .goOn s => some (true, s.xstate)
  | .ended s _ _ => some (false, s.xstate)
  | .silent => none

/-- Every clause of the table is reached: each stage goes on, and each that can end does. -/
theorem test_witness_SequencerFollowsTable :
    let s := scripted [sent]
    let h (m : Memory) : State := { s with rsp := m, xstate := .awaitingRemainder, answers := [.answered .success (remainder 0xC2)] }
    way (xactBegin s) = some (true, .idle) ∧ way (xactFinalize 1 s) = some (true, .requestFinalized)
    ∧ way (xactSend s) = some (true, .sent) ∧ way (xactSend { s with answers := [.answered .timeout []] }) = some (false, .failed)
    ∧ way (xactAwait true { s with xstate := .sent }) = some (true, .sent) ∧ way (xactAwait false s) = some (false, .success)
    ∧ way (xactAwaitHeader s) = some (true, .awaitingHeader)
    ∧ way (xactHeader { s with answers := [.answered .success (header 1 20)] }) = some (true, .awaitingRemainder)
    ∧ way (xactHeader { s with answers := [.answered .success []] }) = some (false, .failed)
    ∧ way (xactRemainder (h fresh)) = some (true, .awaitingRemainder) ∧ way (xactRemainder (h [])) = some (false, .failed)
    ∧ way (xactValidate (h fresh)) = some (true, .awaitingRemainder) ∧ way (xactValidate (h [])) = some (false, .failed)
    ∧ way (xactClassify (h fresh)) = some (true, .awaitingRemainder)
    ∧ way (xactClassify (h (setField fresh fFlags 8))) = some (false, .failed)
    ∧ way (xactDecode 0 0 0 0 (h fresh)) = some (false, .success)
    ∧ way (xactDecode 0x4A 0 0 0 (h fresh)) = some (false, .failed) := by decide +kernel

/-- The edges of the ranges of R91 and R92. -/
theorem test_witness_CodesAndErrorNames :
    100 ≤ (100 : Half).toNat ∧ (104 : Half).toNat ≤ 104 ∧ 16 ≤ (16 : Half).toNat ∧ (99 : Half).toNat < 100
    ∧ 104 < (105 : Half).toNat := by decide

theorem test_witness_SetAckRequestChangesOneFlag : (3 : Fin 16) ≠ (small [] []).params.flags.ackRequest := by decide

end Sys2Proof.Tests
end

namespace Sys2Proof.Machine

/-! ### What a command that is not `XACT` leaves unchanged (R32, R54) -/

/-- A query ends with the state it began in, but for the response. -/
theorem sameOutside_of_answerQuery {s t : State} {q : Except CmdFault Results} (b : BufSel)
    (h : answerQuery s q = .next t) : sameOutside b s t := by
  obtain ⟨r, -, rfl⟩ | ⟨f, -, rfl⟩ := answerQuery_next h <;> simp [sameOutside]

/-- A commit, and a fault in its place, change nothing outside the buffer written and the response. -/
theorem sameOutside_of_commitBuffer {s t : State} {b : BufSel} {q : Except CmdFault (Memory × Results)}
    (h : commitBuffer s b q = .next t) : sameOutside b s t := by
  obtain ⟨m, r, -, rfl⟩ | ⟨f, -, rfl⟩ := commitBuffer_next h
  · exact sameOutside_commit s b m (okResponse r)
  · simp [sameOutside]

/-- A command of the read class is one that `queryInstr` answers. -/
theorem queryInstr_of_read {i : Instr} (s : State) (hc : (classOf i).1 = .read) :
    ∃ q, queryInstr s i = some q := by
  cases i <;> cases hc <;> exact ⟨_, rfl⟩

/-- A command of the read class ends as a query. -/
theorem exec_of_read {i : Instr} (s : State) (hc : (classOf i).1 = .read) :
    ∃ q, exec i s = answerQuery s q := by
  obtain ⟨q, hq⟩ := queryInstr_of_read s hc
  exact ⟨q, exec_of_queryInstr hq⟩

/-- `INIT` and `CLEAR` end with a commit of the buffer they select. -/
theorem exec_of_lifecycle {i : Instr} {b : BufSel} (s : State) (hc : classOf i = (.lifecycle, some b)) :
    ∃ q, exec i s = commitBuffer s b q := by
  cases i <;> cases hc
  case init => exact ⟨.ok (initBuffer (s.buf b), {}), rfl⟩
  case clear => exact ⟨.ok (zeroed (s.buf b), {}), rfl⟩

/-- `XACT` selects no buffer. -/
theorem classOf_transaction {i : Instr} (hc : (classOf i).1 = .transaction) : (classOf i).2 = none := by
  cases i <;> cases hc
  case xact => rfl

/-! ### The two invariants of a built message (R30) -/

/-- The end `q` of a command that writes a buffer of contents `m` keeps R30's invariants: when it completes,
the buffer it writes has them if `m` has. -/
def KeepsBuilt (m : Memory) (q : Except CmdFault (Memory × Results)) : Prop :=
  ∀ n r, q = .ok (n, r) → builtMessage m → builtMessage n

/-- R30's invariants depend on two header fields only. -/
theorem builtMessage_congr {m n : Memory} (hb : brOf n = brOf m)
    (hi : getField n fImmlen = getField m fImmlen) (h : builtMessage m) : builtMessage n := by
  rwa [builtMessage, hb, hi]

/-- A write that touches neither bytes-remaining nor the immediate length keeps R30's invariants. -/
theorem builtMessage_memWrite {m : Memory} {a : Nat} {s : List Byte}
    (hb : 44 ≤ a ∨ a + s.length ≤ 40) (hi : 24 ≤ a ∨ a + s.length ≤ 23) (h : builtMessage m) :
    builtMessage (memWrite m a s) :=
  builtMessage_congr (brOf_memWrite m a s hb) (getField_memWrite m fImmlen a s hi) h

/-- A write behind the header keeps R30's invariants. -/
theorem builtMessage_memWrite_body {m : Memory} {a : Nat} {s : List Byte} (ha : 44 ≤ a)
    (h : builtMessage m) : builtMessage (memWrite m a s) :=
  builtMessage_memWrite (.inl ha) (.inl (by omega)) h

/-- A legal immediate length keeps R30's invariants. -/
theorem builtMessage_setField_immlen {m : Memory} {v : Nat} (hv : v ≤ 16) (hb : 20 ≤ brOf m) :
    builtMessage (setField m fImmlen v) := by
  rw [builtMessage, brOf_setField m fImmlen v (by decide), immlen_setField m v (by omega)]
  exact ⟨hb, hv⟩

/-- A legal bytes-remaining value keeps R30's invariants. -/
theorem builtMessage_setField_bytesrem {m : Memory} {v : Nat} (h1 : 20 ≤ v) (h2 : v < 2 ^ 32)
    (hi : getField m fImmlen ≤ 16) : builtMessage (setField m fBytesrem v) := by
  rw [builtMessage, brOf_setField_bytesrem m v h2,
    getField_setField_other m fBytesrem fImmlen v (.inl (by decide))]
  exact ⟨h1, hi⟩

/-- What `INIT` leaves has R30's invariants: bytes-remaining is 20 and the immediate length 0. -/
theorem builtMessage_initBuffer (m : Memory) : builtMessage (initBuffer m) := by
  unfold initBuffer
  refine builtMessage_memWrite_body (by decide)
    (builtMessage_setField_bytesrem (by decide) (by decide) ?_)
  rw [getField_setField_other _ fVer fImmlen _ (.inr (by decide)),
    getField_memWrite _ fImmlen _ _ (.inr (by decide)), immlen_eq, readByte_zeroed]
  decide

/-- `ImmWrite` keeps R30's invariants: the span it leaves ends within the immediate region (R181). -/
theorem builtMessage_immWrite {m n : Memory} {off w : Nat} {s : List Byte}
    (h : immWrite m off s = .ok (n, w)) (hm : builtMessage m) : builtMessage n := by
  by_cases ho : off ≤ 16
  · rw [immWrite_ok m s ho] at h
    cases h
    refine builtMessage_setField_immlen (by omega) ?_
    rw [brOf_memWrite _ _ _ (.inr (by rw [List.length_take]; omega))]
    exact hm.1
  · rw [immWrite_error m s (by omega)] at h
    cases h

/-- `PayWrite` keeps R30's invariants: bytes-remaining becomes at least 20, and does not wrap, since the span
ends within a capacity below `2^31` (R213, R6). -/
theorem builtMessage_payWrite {cap : Nat} {m n : Memory} {off w : Nat} {s : List Byte} (hcap : cap < 2 ^ 31)
    (h : payWrite cap m off s = .ok (n, w)) (hm : builtMessage m) : builtMessage n := by
  by_cases hf : 44 + off + s.length ≤ cap
  · rw [payWrite_ok m hf] at h
    cases h
    exact builtMessage_setField_bytesrem (by omega) (by omega)
      (builtMessage_memWrite_body (by omega) hm).2
  · rw [payWrite_error m (by omega)] at h
    cases h

/-! ### The ends of the building commands -/

section keepsBuilt
variable {m : Memory}

theorem keepsBuilt_error (f : CmdFault) : KeepsBuilt m (.error f) := by
  intro n r h
  cases h

theorem keepsBuilt_ok {n : Memory} (r : Results) (h : builtMessage m → builtMessage n) :
    KeepsBuilt m (.ok (n, r)) := by
  intro n' r' e
  cases e
  exact h

/-- A setter of a field other than bytes-remaining and the immediate length. -/
theorem keepsBuilt_setFieldResult {f : Field} (v : Nat) (h : f.offset + f.width ≤ 23) :
    KeepsBuilt m (setFieldResult f v m) :=
  keepsBuilt_ok {} (builtMessage_memWrite (.inr (by rw [leBytes_length]; omega))
    (.inr (by rwa [leBytes_length])))

/-- `SET_IMMLEN` refuses a value above 16 (R168). -/
theorem keepsBuilt_setImmlen (v : Nat) :
    KeepsBuilt m (if immCap < v then .error (.badValue v) else setFieldResult fImmlen v m) := by
  split
  · exact keepsBuilt_error _
  · next hv => exact keepsBuilt_ok {} fun h => builtMessage_setField_immlen (Nat.not_lt.mp hv) h.1

/-- `SET_BYTESREM` raises a value below 20 to 20 (R169). -/
theorem keepsBuilt_setBytesrem (v : Word) :
    KeepsBuilt m (setFieldResult fBytesrem (max v.toNat minBr) m) :=
  keepsBuilt_ok {} fun h => builtMessage_setField_bytesrem (Nat.le_max_right _ _)
    (Nat.max_lt.mpr ⟨v.isLt, by decide⟩) h.2

/-- A region write that reports its count. -/
theorem keepsBuilt_countResult {q : Except CmdFault (Memory × Nat)}
    (h : ∀ n w, q = .ok (n, w) → builtMessage m → builtMessage n) : KeepsBuilt m (countResult q) := by
  cases q with
  | ok p => exact keepsBuilt_ok _ (h p.1 p.2 rfl)
  | error f => exact keepsBuilt_error f

/-- A region write that reports its count and its path. -/
theorem keepsBuilt_pathResult {path : Nat} {q : Except CmdFault (Memory × Nat)}
    (h : ∀ n w, q = .ok (n, w) → builtMessage m → builtMessage n) : KeepsBuilt m (pathResult path q) := by
  cases q with
  | ok p => exact keepsBuilt_ok _ (h p.1 p.2 rfl)
  | error f => exact keepsBuilt_error f

/-- An immediate setter. -/
theorem keepsBuilt_immediate (off : Nat) (bytes : List Byte) :
    KeepsBuilt m (countResult (immWrite m off bytes)) :=
  keepsBuilt_countResult fun _ _ => builtMessage_immWrite

/-- A payload setter. -/
theorem keepsBuilt_payload {cap : Nat} (hcap : cap < 2 ^ 31) (off : Nat) (bytes : List Byte) :
    KeepsBuilt m (countResult (payWrite cap m off bytes)) :=
  keepsBuilt_countResult fun _ _ => builtMessage_payWrite hcap

/-- A command behind the window check keeps R30's invariants when it does so past the check. -/
theorem keepsBuilt_withWindow {cap : Nat} {k : Except CmdFault (Memory × Results)} (h : KeepsBuilt m k) :
    KeepsBuilt m (withWindow cap m k) := by
  intro n r e
  obtain ⟨-, -, hk⟩ := withWindow_eq_ok e
  exact h n r hk

end keepsBuilt

theorem builtMessage_writeChecksum {m : Memory} (h : builtMessage m) : builtMessage (writeChecksum m) :=
  builtMessage_memWrite_body (by rw [ckOff_eq]; omega) h

theorem builtMessage_writeFooter {m : Memory} (h : builtMessage m) : builtMessage (writeFooter m) :=
  builtMessage_memWrite_body (by rw [ftOff_eq]; omega) h

theorem builtMessage_finalizeBuffer (t : Word) {m : Memory} (h : builtMessage m) :
    builtMessage (finalizeBuffer t m) :=
  builtMessage_congr (brOf_finalizeBuffer t m)
    (getField_finalizeBuffer t m fImmlen (by decide) (by decide)) h

/-- `SET_CKSUM` writes behind the header or not at all (R258). -/
theorem keepsBuilt_setCksum {cap : Nat} {m : Memory} (len : Word) (wbytes : List Byte) :
    KeepsBuilt m (if len.toNat ≠ ckLen then .error (.badValue len.toNat)
      else withWindow cap m (.ok (memWrite m (ckOff m) wbytes, {}))) := by
  split
  · exact keepsBuilt_error _
  · exact keepsBuilt_withWindow (keepsBuilt_ok {} (builtMessage_memWrite_body (by rw [ckOff_eq]; omega)))

/-- `PUT_AUTO` is an immediate write or a payload write or a fault (R285). -/
theorem keepsBuilt_putAuto {cap : Nat} {m : Memory} (hcap : cap < 2 ^ 31) (wbytes : List Byte) (t : Byte) :
    KeepsBuilt m (if immCap < t.toNat then .error (.badValue t.toNat)
      else if wbytes.length ≤ t.toNat then pathResult 0 (immWrite m 0 wbytes)
      else pathResult 1 (payWrite cap m 0 wbytes)) := by
  split
  · exact keepsBuilt_error _
  · split
    · exact keepsBuilt_pathResult fun _ _ => builtMessage_immWrite
    · exact keepsBuilt_pathResult fun _ _ => builtMessage_payWrite hcap

/-- Every building command ends with a commit of the buffer it selects that keeps R30's invariants. -/
theorem exec_of_build {i : Instr} {b : BufSel} (s : State) (hc : classOf i = (.build, some b)) :
    ∃ q, exec i s = commitBuffer s b q ∧ KeepsBuilt (s.buf b) q := by
  have hcap : s.cap b < 2 ^ 31 := (cap_bounds s b).2
  cases i <;> cases hc
  case setSync | setVer | setFlags | setErrno | setMsgtype | setRegarding | setRsvd | setCktype =>
    exact ⟨_, rfl, keepsBuilt_setFieldResult _ (by decide)⟩
  case setImmlen v => exact ⟨_, rfl, keepsBuilt_setImmlen v.toNat⟩
  case setBytesrem v => exact ⟨_, rfl, keepsBuilt_setBytesrem v⟩
  case setImmByte | setImmShort | setImmInt | setImmLong | setImmFloat | setImmDouble | setImmBytes =>
    exact ⟨_, rfl, keepsBuilt_immediate _ _⟩
  case setPayByte | setPayShort | setPayInt | setPayLong | setPayFloat | setPayDouble | setPayBytes =>
    exact ⟨_, rfl, keepsBuilt_payload hcap _ _⟩
  case cksumCompute =>
    exact ⟨_, rfl, keepsBuilt_withWindow (keepsBuilt_ok {} builtMessage_writeChecksum)⟩
  case setCksum len wbytes => exact ⟨_, rfl, keepsBuilt_setCksum len wbytes⟩
  case setFooter =>
    exact ⟨_, rfl, keepsBuilt_withWindow (keepsBuilt_ok {} builtMessage_writeFooter)⟩
  case putAuto len wbytes t => exact ⟨_, rfl, keepsBuilt_putAuto hcap wbytes t⟩
  case finalize msgType =>
    exact ⟨_, rfl, keepsBuilt_withWindow (keepsBuilt_ok {} (builtMessage_finalizeBuffer msgType))⟩

/-- A building command keeps R30's invariants, whether it completes or faults. -/
theorem builtMessage_of_exec_build {i : Instr} {s t : State} {b : BufSel}
    (hc : classOf i = (.build, some b)) (hs : builtMessage (s.buf b)) (h : exec i s = .next t) :
    builtMessage (t.buf b) := by
  obtain ⟨q, hq, hk⟩ := exec_of_build s hc
  obtain ⟨m, r, hm, rfl⟩ | ⟨f, -, rfl⟩ := commitBuffer_next (hq.symm.trans h)
  · rw [respond_buf, setBuf_buf_self]
    exact hk m r hm hs
  · rwa [respond_buf]

/-- A command that selects a buffer, which is every one but `XACT`, changes nothing outside that buffer and
the response. -/
theorem sameOutside_of_exec {i : Instr} {s t : State} {b : BufSel} (hb : (classOf i).2 = some b)
    (h : exec i s = .next t) : sameOutside b s t := by
  cases hc : (classOf i).1 with
  | lifecycle =>
    obtain ⟨q, hq⟩ := exec_of_lifecycle s (Prod.ext hc hb)
    exact sameOutside_of_commitBuffer (hq.symm.trans h)
  | read =>
    obtain ⟨q, hq⟩ := exec_of_read s hc
    exact sameOutside_of_answerQuery b (hq.symm.trans h)
  | build =>
    obtain ⟨q, hq, -⟩ := exec_of_build s (Prod.ext hc hb)
    exact sameOutside_of_commitBuffer (hq.symm.trans h)
  | transaction =>
    rw [classOf_transaction hc] at hb
    cases hb

/-! ### The statements of 10_state.md -/

/-- Settles O16: `INIT` leaves bytes-remaining 20 and immediate length 0, and every building command ends
with a commit that keeps both bounds. -/
theorem buildingCommandsKeepMessageLegal : Obligations.BuildingCommandsKeepMessageLegal := by
  refine ⟨fun s b => ⟨_, rfl, ?_⟩, fun i s t b _ hc hs h => builtMessage_of_exec_build hc hs h⟩
  rw [respond_buf, setBuf_buf_self]
  exact builtMessage_initBuffer (s.buf b)

/-- Settles O14, by the class of the command. -/
theorem onlyXactMovesSequencer : Obligations.OnlyXactMovesSequencer := by
  intro i s t b hb h
  obtain ⟨-, hother, hxstate, -, hanswers, hcalls⟩ := sameOutside_of_exec hb h
  exact ⟨hxstate, hcalls, hanswers, hother⟩

/-- Settles O7: each field of a reset state is the one the definition of the reset event gives it. -/
theorem resetLeavesSequencerIdle : Obligations.ResetLeavesSequencerIdle := by
  refine ⟨fun p m n => ?_, ⟨Params.default, [], [], rfl⟩, fun s m n => ?_⟩
  · exact ⟨rfl, rfl, rfl, rfl, rfl, rfl⟩
  · exact ⟨rfl, rfl, rfl, rfl, rfl, rfl, rfl, rfl⟩

end Sys2Proof.Machine

namespace Sys2Proof.Machine

/-! ### Legal buffers (R52) -/

/-- What the invariant of the machine asks of one buffer: the canonical form, and no byte at or beyond the
capacity. -/
def LegalBuffer (cap : Nat) (m : Memory) : Prop := m.wf ∧ m.within cap

theorem legalBuffer_zeroed (cap : Nat) (m : Memory) : LegalBuffer cap (zeroed m) :=
  ⟨wf_zeroed m, within_zeroed m cap⟩

/-- A span that ends within the capacity. -/
theorem legalBuffer_memWrite {cap a : Nat} {m : Memory} {bs : List Byte} (h : LegalBuffer cap m)
    (ha : a + bs.length ≤ cap) : LegalBuffer cap (memWrite m a bs) :=
  ⟨wf_memWrite h.1 a bs, within_memWrite h.2 (.inr ha)⟩

theorem legalBuffer_setField {cap : Nat} {m : Memory} {f : Field} (v : Nat) (h : LegalBuffer cap m)
    (hf : f.offset + f.width ≤ cap) : LegalBuffer cap (setField m f v) :=
  ⟨wf_setField h.1 f v, within_setField h.2 f v hf⟩

/-- What `INIT` leaves needs the least capacity only. -/
theorem legalBuffer_initBuffer {cap : Nat} (hcap : 64 ≤ cap) (m : Memory) : LegalBuffer cap (initBuffer m) := by
  have hsync : LegalBuffer cap (memWrite (zeroed m) fSync.offset syncBytes) :=
    legalBuffer_memWrite (legalBuffer_zeroed cap m) (Nat.le_trans (by decide) hcap)
  have hver := legalBuffer_setField (f := fVer) protocolVersion hsync (Nat.le_trans (by decide) hcap)
  have hbr := legalBuffer_setField (f := fBytesrem) minBr hver (Nat.le_trans (by decide) hcap)
  exact legalBuffer_memWrite hbr (Nat.le_trans (by decide) hcap)

theorem legalBuffer_finalizeBuffer {cap : Nat} {m : Memory} (t : Word) (h : LegalBuffer cap m)
    (h1 : 20 ≤ brOf m) (h2 : 44 + brOf m ≤ cap) : LegalBuffer cap (finalizeBuffer t m) :=
  ⟨wf_finalizeBuffer h.1 t, within_finalizeBuffer h.2 t h1 h2⟩

/-! ### Writing what a buffer already holds -/

/-- Writing to a span the bytes it already holds changes nothing: buffers are canonical (log entry 3). -/
theorem memWrite_eq_self {m : Memory} {a : Nat} {bs : List Byte} (hm : m.wf)
    (h : memRead m a bs.length = bs) : memWrite m a bs = m := by
  refine eq_of_readByte_eq (wf_memWrite hm a bs) hm fun x => ?_
  by_cases hx : a ≤ x ∧ x - a < bs.length
  · obtain ⟨i, rfl⟩ := Nat.exists_eq_add_of_le hx.1
    have hi : i < bs.length := by omega
    calc readByte (memWrite m a bs) (a + i)
        = bs[i] := readByte_memWrite_in m a i bs hi
      _ = (memRead m a bs.length)[i]'(by simpa using hi) := by simp only [h]
      _ = readByte m (a + i) := memRead_getElem ..
  · exact readByte_memWrite_out m a x bs (by omega)

/-- The same span written twice. -/
theorem memWrite_memWrite_same {m : Memory} (hm : m.wf) (a : Nat) (bs : List Byte) :
    memWrite (memWrite m a bs) a bs = memWrite m a bs :=
  memWrite_eq_self (wf_memWrite hm a bs) (memRead_memWrite_same m a bs)

theorem memRead_setField_same (m : Memory) (f : Field) (v : Nat) :
    memRead (setField m f v) f.offset f.width = leBytes f.width v := by
  simpa [setField] using memRead_memWrite_same m f.offset (leBytes f.width v)

theorem setField_eq_self {m : Memory} {f : Field} {v : Nat} (hm : m.wf)
    (h : memRead m f.offset f.width = leBytes f.width v) : setField m f v = m :=
  memWrite_eq_self hm (by rwa [leBytes_length])

/-- The same field set twice. -/
theorem setField_setField_same {m : Memory} (hm : m.wf) (f : Field) (v : Nat) :
    setField (setField m f v) f v = setField m f v :=
  setField_eq_self (wf_setField hm f v) (memRead_setField_same m f v)

/-- The shape of a region write: a span outside a field, then the field. Done twice it is as done once. -/
theorem setField_memWrite_again {m : Memory} {f : Field} {a : Nat} {bs : List Byte} (v : Nat) (hm : m.wf)
    (hd : f.offset + f.width ≤ a ∨ a + bs.length ≤ f.offset) :
    setField (memWrite (setField (memWrite m a bs) f v) a bs) f v = setField (memWrite m a bs) f v := by
  have hbytes : memRead (setField (memWrite m a bs) f v) a bs.length = bs := by
    rw [setField, memRead_memWrite_disjoint _ _ _ _ _ (by rw [leBytes_length]; omega),
      memRead_memWrite_same]
  have hwf := wf_memWrite hm a bs
  rw [memWrite_eq_self (wf_setField hwf f v) hbytes, setField_setField_same hwf]

/-! ### The checksum and the footer, written twice -/

/-- The expected checksum does not depend on the bytes from the checksum region on (R250). -/
theorem expectedChecksum_memWrite {m : Memory} {a : Nat} (bs : List Byte) (h : ckOff m ≤ a) :
    expectedChecksum (memWrite m a bs) = expectedChecksum m := by
  have h44 : 44 ≤ a := by rw [ckOff_eq] at h; omega
  have hck : ckOff (memWrite m a bs) = ckOff m := ckOff_congr (brOf_memWrite m a bs (.inl h44))
  have htype : getField (memWrite m a bs) fCktype = getField m fCktype :=
    getField_memWrite m fCktype a bs (.inl (by simp only [fCktype]; omega))
  rw [expectedChecksum, expectedChecksum, hck, htype, memRead_memWrite_disjoint _ _ _ _ _ (.inl (by omega))]

theorem ckOff_writeChecksum (m : Memory) : ckOff (writeChecksum m) = ckOff m :=
  ckOff_congr (brOf_writeChecksum m)

theorem ckOff_writeFooter (m : Memory) : ckOff (writeFooter m) = ckOff m :=
  ckOff_congr (brOf_writeFooter m)

theorem ftOff_writeFooter (m : Memory) : ftOff (writeFooter m) = ftOff m :=
  ftOff_congr (brOf_writeFooter m)

theorem expectedChecksum_writeChecksum (m : Memory) :
    expectedChecksum (writeChecksum m) = expectedChecksum m :=
  expectedChecksum_memWrite _ (Nat.le_refl _)

theorem expectedChecksum_writeFooter (m : Memory) : expectedChecksum (writeFooter m) = expectedChecksum m :=
  expectedChecksum_memWrite _ (Nat.le_add_right _ _)

theorem memRead_writeChecksum (m : Memory) :
    memRead (writeChecksum m) (ckOff m) 16 = expectedChecksum m := by
  simpa [writeChecksum] using memRead_memWrite_same m (ckOff m) (expectedChecksum m)

theorem writeChecksum_eq_self {m : Memory} (hm : m.wf)
    (h : memRead m (ckOff m) 16 = expectedChecksum m) : writeChecksum m = m :=
  memWrite_eq_self hm (by rwa [expectedChecksum_length])

theorem writeChecksum_writeChecksum {m : Memory} (hm : m.wf) :
    writeChecksum (writeChecksum m) = writeChecksum m := by
  refine writeChecksum_eq_self (wf_memWrite hm _ _) ?_
  rw [ckOff_writeChecksum, expectedChecksum_writeChecksum, memRead_writeChecksum]

theorem writeFooter_writeFooter {m : Memory} (hm : m.wf) : writeFooter (writeFooter m) = writeFooter m := by
  rw [writeFooter, ftOff_writeFooter, writeFooter, memWrite_memWrite_same hm]

/-- The message type stays where `FINALIZE` put it. -/
theorem setField_finalizeBuffer (t : Word) {m : Memory} (hm : m.wf) :
    setField (finalizeBuffer t m) fMsgtype t.toNat = finalizeBuffer t m := by
  refine setField_eq_self (wf_finalizeBuffer hm t) ?_
  calc memRead (finalizeBuffer t m) 8 4
      = memRead (writeChecksum (setField m fMsgtype t.toNat)) 8 4 :=
        memRead_memWrite_disjoint _ _ _ _ _ (.inl (by rw [ftOff_eq]; omega))
    _ = memRead (setField m fMsgtype t.toNat) 8 4 :=
        memRead_memWrite_disjoint _ _ _ _ _ (.inl (by rw [ckOff_eq]; omega))
    _ = leBytes 4 t.toNat := memRead_setField_same m fMsgtype t.toNat

/-- The checksum `FINALIZE` stores is the expected one of what it leaves: the footer lies behind it. -/
theorem writeChecksum_finalizeBuffer (t : Word) {m : Memory} (hm : m.wf) :
    writeChecksum (finalizeBuffer t m) = finalizeBuffer t m := by
  refine writeChecksum_eq_self (wf_finalizeBuffer hm t) ?_
  rw [finalizeBuffer, ckOff_writeFooter, expectedChecksum_writeFooter, ckOff_writeChecksum,
    expectedChecksum_writeChecksum, ← memRead_writeChecksum]
  exact memRead_memWrite_disjoint _ _ _ _ _ (.inl (by rw [ftOff, ckOff_writeChecksum]; rfl))

/-- Each of the three writes of `FINALIZE` done again finds what it writes. -/
theorem finalizeBuffer_finalizeBuffer (t : Word) {m : Memory} (hm : m.wf) :
    finalizeBuffer t (finalizeBuffer t m) = finalizeBuffer t m := by
  have hsummed : (writeChecksum (setField m fMsgtype t.toNat)).wf :=
    wf_memWrite (wf_setField hm fMsgtype t.toNat) _ _
  calc finalizeBuffer t (finalizeBuffer t m)
      = writeFooter (writeChecksum (setField (finalizeBuffer t m) fMsgtype t.toNat)) := rfl
    _ = writeFooter (finalizeBuffer t m) := by
        rw [setField_finalizeBuffer t hm, writeChecksum_finalizeBuffer t hm]
    _ = finalizeBuffer t m := writeFooter_writeFooter hsummed

/-! ### What a command that writes a buffer does to it -/

/-- `w` is the write of a command, given the capacity and the contents of the buffer it selects. It is sound
if from a legal buffer it leaves a legal one, and run again on what it left gives the same again. -/
def SoundWrite {α : Type} (w : Nat → Memory → Except CmdFault (Memory × α)) : Prop :=
  ∀ (cap : Nat) (m n : Memory) (r : α), 64 ≤ cap → LegalBuffer cap m → w cap m = .ok (n, r) →
    LegalBuffer cap n ∧ w cap n = .ok (n, r)

section soundWrite
variable {α : Type}

theorem soundWrite_error (f : CmdFault) : SoundWrite (α := α) fun _ _ => .error f := by
  intro cap m n r _ _ h
  cases h

/-- A write whose result does not depend on what the buffer held. -/
theorem soundWrite_const {n : Memory} (r : α) (hn : ∀ cap, 64 ≤ cap → LegalBuffer cap n) :
    SoundWrite fun _ _ => .ok (n, r) := by
  intro cap m n' r' hcap _ h
  cases h
  exact ⟨hn cap hcap, rfl⟩

/-- A choice that does not depend on the buffer. -/
theorem soundWrite_ite {c : Prop} [Decidable c] {v w : Nat → Memory → Except CmdFault (Memory × α)}
    (hv : c → SoundWrite v) (hw : ¬ c → SoundWrite w) :
    SoundWrite fun cap m => if c then v cap m else w cap m := by
  by_cases hc : c
  · simpa only [if_pos hc] using hv hc
  · simpa only [if_neg hc] using hw hc

/-- A common setter of a header field (R142). -/
theorem soundWrite_setFieldResult {f : Field} (v : Nat) (hf : f.offset + f.width ≤ 64) :
    SoundWrite fun _ => setFieldResult f v := by
  intro cap m n r hcap hm h
  cases h
  refine ⟨legalBuffer_setField v hm (Nat.le_trans hf hcap), ?_⟩
  show setFieldResult f v (setField m f v) = _
  rw [setFieldResult, setField_setField_same hm.1]

/-- `ImmWrite` (R181): the span ends at 40 at the latest, in front of bytes-remaining. -/
theorem soundWrite_immWrite (off : Nat) (bytes : List Byte) :
    SoundWrite fun _ m => immWrite m off bytes := by
  intro cap m n w hcap hm (h : immWrite m off bytes = .ok (n, w))
  by_cases ho : off ≤ 16
  · rw [immWrite_ok m bytes ho] at h
    cases h
    have hspan : 24 + off + (bytes.take (min bytes.length (16 - off))).length ≤ cap := by
      rw [List.length_take]; omega
    refine ⟨legalBuffer_setField _ (legalBuffer_memWrite hm hspan) (Nat.le_trans (by decide) hcap), ?_⟩
    show immWrite _ off bytes = _
    rw [immWrite_ok _ bytes ho, setField_memWrite_again _ hm.1 (.inl (by simp only [fImmlen]; omega))]
  · rw [immWrite_error m bytes (by omega)] at h
    cases h

/-- `PayWrite` (R213): the bound it tests is the capacity, and the span starts behind the header. -/
theorem soundWrite_payWrite (off : Nat) (bytes : List Byte) :
    SoundWrite fun cap m => payWrite cap m off bytes := by
  intro cap m n w hcap hm (h : payWrite cap m off bytes = .ok (n, w))
  by_cases hf : 44 + off + bytes.length ≤ cap
  · rw [payWrite_ok m hf] at h
    cases h
    refine ⟨legalBuffer_setField _ (legalBuffer_memWrite hm hf) (Nat.le_trans (by decide) hcap), ?_⟩
    show payWrite cap _ off bytes = _
    rw [payWrite_ok _ hf, setField_memWrite_again _ hm.1 (.inl (by simp only [fBytesrem]; omega))]
  · rw [payWrite_error m (by omega)] at h
    cases h

/-- A write whose report is changed by `g`. -/
theorem soundWrite_map {β : Type} (g : α → β) {w : Nat → Memory → Except CmdFault (Memory × α)}
    (hw : SoundWrite w) : SoundWrite fun cap m => (w cap m).map (Prod.map id g) := by
  intro cap m n r hcap hm (h : (w cap m).map (Prod.map id g) = .ok (n, r))
  cases hq : w cap m with
  | error f => rw [hq] at h; cases h
  | ok p =>
    rw [hq] at h
    cases h
    obtain ⟨hn, hagain⟩ := hw cap m p.1 p.2 hcap hm hq
    exact ⟨hn, congrArg (Except.map (Prod.map id g)) hagain⟩

theorem countResult_eq_map (q : Except CmdFault (Memory × Nat)) :
    countResult q = q.map (Prod.map id fun w => { cnt := BitVec.ofNat 32 w }) := by
  cases q <;> rfl

theorem pathResult_eq_map (path : Nat) (q : Except CmdFault (Memory × Nat)) :
    pathResult path q
      = q.map (Prod.map id fun w => { rdata := BitVec.ofNat 64 path, cnt := BitVec.ofNat 32 w }) := by
  cases q <;> rfl

/-- A region write that reports its count. -/
theorem soundWrite_countResult {w : Nat → Memory → Except CmdFault (Memory × Nat)} (hw : SoundWrite w) :
    SoundWrite fun cap m => countResult (w cap m) := by
  simpa only [countResult_eq_map] using soundWrite_map _ hw

/-- A region write that reports its count and its path. -/
theorem soundWrite_pathResult {w : Nat → Memory → Except CmdFault (Memory × Nat)} (path : Nat)
    (hw : SoundWrite w) : SoundWrite fun cap m => pathResult path (w cap m) := by
  simpa only [pathResult_eq_map] using soundWrite_map _ hw

/-- A write behind the window check: it may use that the message lies in the buffer, and the check passes
again because bytes-remaining stays. -/
theorem soundWrite_withWindow {u : Memory → Memory} (r : α) (hbr : ∀ m, brOf (u m) = brOf m)
    (hlegal : ∀ cap m, LegalBuffer cap m → 20 ≤ brOf m → 44 + brOf m ≤ cap → LegalBuffer cap (u m))
    (hagain : ∀ m, m.wf → u (u m) = u m) :
    SoundWrite fun cap m => withWindow cap m (.ok (u m, r)) := by
  intro cap m n r' _ hm h
  obtain ⟨h1, h2, hk⟩ := withWindow_eq_ok h
  cases hk
  refine ⟨hlegal cap m hm h1 h2, ?_⟩
  show withWindow cap (u m) _ = _
  rw [withWindow_ok (by rwa [hbr]) (by rwa [hbr]), hagain m hm.1]

end soundWrite

/-- `CKSUM_COMPUTE` (R252). -/
theorem soundWrite_cksumCompute :
    SoundWrite fun cap m => withWindow cap m (.ok (writeChecksum m, ({} : Results))) := by
  refine soundWrite_withWindow ({} : Results) brOf_writeChecksum (fun cap m hm h1 h2 => ?_)
    fun m => writeChecksum_writeChecksum
  exact legalBuffer_memWrite hm (by rw [ckOff_eq, expectedChecksum_length]; omega)

/-- `SET_CKSUM` (R258), of sixteen bytes or a fault. -/
theorem soundWrite_setCksum {len : Word} {wbytes : List Byte} (hl : wbytes.length = len.toNat) :
    SoundWrite fun cap m => if len.toNat ≠ ckLen then .error (.badValue len.toNat)
      else withWindow cap m (.ok (memWrite m (ckOff m) wbytes, ({} : Results))) := by
  refine soundWrite_ite (fun _ => soundWrite_error _) fun hlen => ?_
  have hbr (m : Memory) : brOf (memWrite m (ckOff m) wbytes) = brOf m :=
    brOf_memWrite _ _ _ (.inl (Nat.le_add_right _ _))
  have h16 : wbytes.length = 16 := hl.trans (Decidable.not_not.mp hlen)
  refine soundWrite_withWindow ({} : Results) hbr (fun cap m hm h1 h2 => ?_) fun m hm => ?_
  · exact legalBuffer_memWrite hm (by rw [ckOff_eq]; omega)
  · rw [ckOff_congr (hbr m), memWrite_memWrite_same hm]

/-- `SET_FOOTER` (R260). -/
theorem soundWrite_setFooter :
    SoundWrite fun cap m => withWindow cap m (.ok (writeFooter m, ({} : Results))) := by
  refine soundWrite_withWindow ({} : Results) brOf_writeFooter (fun cap m hm h1 h2 => ?_) fun m => writeFooter_writeFooter
  have hlen : footerBytes.length = 4 := rfl
  exact legalBuffer_memWrite hm (by rw [ftOff_eq]; omega)

/-- `FINALIZE` (R320). -/
theorem soundWrite_finalize (t : Word) :
    SoundWrite fun cap m => withWindow cap m (.ok (finalizeBuffer t m, ({} : Results))) :=
  soundWrite_withWindow ({} : Results) (brOf_finalizeBuffer t) (fun _ _ => legalBuffer_finalizeBuffer t)
    fun _ => finalizeBuffer_finalizeBuffer t

/-- `PUT_AUTO` (R285): a fault, an immediate write or a payload write. -/
theorem soundWrite_putAuto (wbytes : List Byte) (t : Byte) :
    SoundWrite fun cap m => if immCap < t.toNat then .error (.badValue t.toNat)
      else if wbytes.length ≤ t.toNat then pathResult 0 (immWrite m 0 wbytes)
      else pathResult 1 (payWrite cap m 0 wbytes) :=
  soundWrite_ite (fun _ => soundWrite_error _) fun _ =>
    soundWrite_ite (fun _ => soundWrite_pathResult 0 (soundWrite_immWrite 0 wbytes))
      fun _ => soundWrite_pathResult 1 (soundWrite_payWrite 0 wbytes)

/-- `INIT` and `CLEAR` commit a write that does not depend on what the buffer held. -/
theorem soundWrite_of_lifecycle {i : Instr} {b : BufSel} (hc : classOf i = (.lifecycle, some b)) :
    ∃ w : Nat → Memory → Except CmdFault (Memory × Results),
      SoundWrite w ∧ ∀ s : State, exec i s = commitBuffer s b (w (s.cap b) (s.buf b)) := by
  cases i <;> cases hc
  case init =>
    exact ⟨_, soundWrite_const {} fun _ hcap => legalBuffer_initBuffer hcap [], fun _ => rfl⟩
  case clear => exact ⟨_, soundWrite_const {} fun cap _ => legalBuffer_zeroed cap [], fun _ => rfl⟩

/-- Every well-formed building command commits a sound write. -/
theorem soundWrite_of_build {i : Instr} {b : BufSel} (hwf : i.wellFormed = true)
    (hc : classOf i = (.build, some b)) :
    ∃ w : Nat → Memory → Except CmdFault (Memory × Results),
      SoundWrite w ∧ ∀ s : State, exec i s = commitBuffer s b (w (s.cap b) (s.buf b)) := by
  cases i <;> cases hc
  case setSync | setVer | setFlags | setErrno | setMsgtype | setRegarding | setRsvd | setCktype
      | setBytesrem =>
    exact ⟨_, soundWrite_setFieldResult _ (by decide), fun _ => rfl⟩
  case setImmlen v =>
    exact ⟨_, soundWrite_ite (fun _ => soundWrite_error (.badValue v.toNat))
      fun _ => soundWrite_setFieldResult v.toNat (by decide), fun _ => rfl⟩
  case setImmByte | setImmShort | setImmInt | setImmLong | setImmFloat | setImmDouble | setImmBytes =>
    exact ⟨_, soundWrite_countResult (soundWrite_immWrite _ _), fun _ => rfl⟩
  case setPayByte | setPayShort | setPayInt | setPayLong | setPayFloat | setPayDouble | setPayBytes =>
    exact ⟨_, soundWrite_countResult (soundWrite_payWrite _ _), fun _ => rfl⟩
  case cksumCompute => exact ⟨_, soundWrite_cksumCompute, fun _ => rfl⟩
  case setCksum => exact ⟨_, soundWrite_setCksum (beq_iff_eq.mp hwf), fun _ => rfl⟩
  case setFooter => exact ⟨_, soundWrite_setFooter, fun _ => rfl⟩
  case putAuto wbytes t => exact ⟨_, soundWrite_putAuto wbytes t, fun _ => rfl⟩
  case finalize msgType => exact ⟨_, soundWrite_finalize msgType, fun _ => rfl⟩

/-- A command of any class but `XACT` is a read or writes the buffer it selects. -/
theorem classOf_cases {i : Instr} (h : (classOf i).1 ≠ .transaction) :
    (classOf i).1 = .read
      ∨ ∃ b, classOf i = (.lifecycle, some b) ∨ classOf i = (.build, some b) := by
  cases i
  case xact => exact absurd rfl h
  all_goals simp [classOf]

/-- Every command but `XACT` is a read, or commits to the buffer it selects a sound write, which takes
nothing but the capacity and the contents of that buffer. -/
theorem read_or_soundWrite {i : Instr} (hwf : i.wellFormed = true) (hc : (classOf i).1 ≠ .transaction) :
    (classOf i).1 = .read
      ∨ ∃ (b : BufSel) (w : Nat → Memory → Except CmdFault (Memory × Results)),
          SoundWrite w ∧ ∀ s : State, exec i s = commitBuffer s b (w (s.cap b) (s.buf b)) := by
  obtain hread | ⟨b, hlife | hbuild⟩ := classOf_cases hc
  · exact .inl hread
  · exact .inr ⟨b, soundWrite_of_lifecycle hlife⟩
  · exact .inr ⟨b, soundWrite_of_build hwf hbuild⟩

/-! ### Reads -/

/-- A read takes nothing from the response, so that it answers the same whatever the response was. -/
theorem exec_read_respond {i : Instr} (s : State) (hc : (classOf i).1 = .read) :
    ∃ r, ∀ o : Option Response,
      exec i { s with response := o } = .next { s with response := some r } := by
  obtain ⟨q, hq⟩ := queryInstr_of_read s hc
  have hexec (o : Option Response) :
      exec i { s with response := o } = answerQuery { s with response := o } q :=
    exec_of_queryInstr ((queryInstr_congr i rfl rfl rfl).trans hq)
  cases q with
  | ok r => exact ⟨okResponse r, hexec⟩
  | error f => exact ⟨faultResponse f, hexec⟩

/-! ### What the decoder and a step can do -/

/-- An instruction that reads `wbytes` decodes only with the count its record gives (R97, U29). -/
theorem decodeBytes_eq_ok {c : Command} {i j : Instr} (h : decodeBytes c i = .ok j) :
    c.wbytes.length = c.len.toNat ∧ j = i := by
  unfold decodeBytes at h
  split at h
  · next hl => cases h; exact ⟨hl, rfl⟩
  · cases h

/-- One of the four commands that read `wbytes`, which take them and `len` from the record. -/
theorem wellFormed_of_decodeBytes {c : Command} {i j : Instr}
    (hi : i.wellFormed = (c.wbytes.length == c.len.toNat)) (h : decodeBytes c i = .ok j) :
    j.wellFormed = true := by
  obtain ⟨hl, rfl⟩ := decodeBytes_eq_ok h
  rw [hi, beq_iff_eq, hl]

theorem wellFormed_of_decodeOp {b : BufSel} {c : Command} {op : Nat} {i : Instr}
    (h : decodeOp b c op = .ok i) : i.wellFormed = true := by
  unfold decodeOp at h
  split at h
  case h_65 => cases b <;> cases h; rfl
  case h_66 => cases h
  any_goals (cases h; rfl)
  all_goals exact wellFormed_of_decodeBytes rfl h

/-- What the decoder accepts meets the contract on `wbytes`. -/
theorem wellFormed_of_decode {c : Command} {i : Instr} (h : decode c = .ok i) : i.wellFormed = true := by
  unfold decode at h
  split at h
  · exact wellFormed_of_decodeOp h
  · cases h

theorem step_of_idle {s : State} (h : s.port = []) : step s = .next s := by
  simp only [step, fetch, h]

theorem step_of_instr {s : State} {c : Command} {rest : List Command} {i : Instr}
    (hp : s.port = c :: rest) (hd : decode c = .ok i) : step s = exec i { s with port := rest } := by
  simp only [step, fetch, hp, hd]

theorem step_of_reject {s : State} {c : Command} {rest : List Command} {e : DecodeError}
    (hp : s.port = c :: rest) (hd : decode c = .error e) :
    step s = rejectCommand e { s with port := rest } := by
  simp only [step, fetch, hp, hd]

/-- A rejected record that does not stop the machine was an undefined word, and only the response changes. -/
theorem rejectCommand_next {e : DecodeError} {s t : State} (h : rejectCommand e s = .next t) :
    t = s.respond (faultResponse .illegalOp) := by
  cases e with
  | illegalOp => cases h; rfl
  | wbytesLength => cases h

/-- Everything a step that ends can do: idle, run a well-formed command, or answer `IllegalOp`. -/
theorem step_next {s t : State} (h : step s = .next t) :
    t = s ∨ ∃ rest : List Command,
      (∃ i, i.wellFormed = true ∧ exec i { s with port := rest } = .next t)
        ∨ t = ({ s with port := rest } : State).respond (faultResponse .illegalOp) := by
  cases hp : s.port with
  | nil => rw [step_of_idle hp] at h; cases h; exact .inl rfl
  | cons c rest =>
    refine .inr ⟨rest, ?_⟩
    cases hd : decode c with
    | ok i => exact .inl ⟨i, wellFormed_of_decode hd, (step_of_instr hp hd).symm.trans h⟩
    | error e => exact .inr (rejectCommand_next ((step_of_reject hp hd).symm.trans h))

/-! ### The invariant, for commands other than `XACT` -/

/-- Both buffers are legal: the invariant but for the sequencer. -/
def BuffersLegal (s : State) : Prop := LegalBuffer (s.cap .req) s.req ∧ LegalBuffer (s.cap .rsp) s.rsp

theorem inv_iff (s : State) : s.Inv ↔ BuffersLegal s ∧ s.xstate.atRest = true := by
  constructor
  · rintro ⟨hq, hr, hqin, hrin, hx⟩
    exact ⟨⟨⟨hq, hqin⟩, hr, hrin⟩, hx⟩
  · rintro ⟨⟨⟨hq, hqin⟩, hr, hrin⟩, hx⟩
    exact ⟨hq, hr, hqin, hrin, hx⟩

theorem BuffersLegal.buf {s : State} (h : BuffersLegal s) (b : BufSel) : LegalBuffer (s.cap b) (s.buf b) := by
  cases b with
  | req => exact h.1
  | rsp => exact h.2

theorem BuffersLegal.setBuf {s : State} {b : BufSel} {m : Memory} (h : BuffersLegal s)
    (hm : LegalBuffer (s.cap b) m) : BuffersLegal (s.setBuf b m) := by
  cases b with
  | req => exact ⟨hm, h.2⟩
  | rsp => exact ⟨h.1, hm⟩

theorem BuffersLegal.withReq {s : State} {m : Memory} (x : XState) (h : BuffersLegal s)
    (hm : LegalBuffer (s.cap .req) m) : BuffersLegal { s with req := m, xstate := x } := ⟨hm, h.2⟩

/-- The invariant does not look at the response. -/
theorem inv_respond {s : State} (r : Response) (h : s.Inv) : (s.respond r).Inv := h

theorem inv_setBuf {s : State} {b : BufSel} {m : Memory} (h : s.Inv) (hm : LegalBuffer (s.cap b) m) :
    (s.setBuf b m).Inv := by
  obtain ⟨hs, hx⟩ := (inv_iff s).mp h
  exact (inv_iff _).mpr ⟨hs.setBuf hm, by rwa [setBuf_xstate]⟩

/-- A sound write, committed, keeps the invariant. -/
theorem inv_of_commitBuffer {s t : State} {b : BufSel}
    {w : Nat → Memory → Except CmdFault (Memory × Results)} (hw : SoundWrite w) (hs : s.Inv)
    (h : commitBuffer s b (w (s.cap b) (s.buf b)) = .next t) : t.Inv := by
  obtain ⟨m, r, hm, rfl⟩ | ⟨f, -, rfl⟩ := commitBuffer_next h
  · have hbuf := ((inv_iff s).mp hs).1.buf b
    exact inv_respond _ (inv_setBuf hs (hw _ _ m r (cap_bounds s b).1 hbuf hm).1)
  · exact inv_respond _ hs

/-- A sound write, committed, is committed again with the same end. -/
theorem commitBuffer_again {s t : State} {b : BufSel}
    {w : Nat → Memory → Except CmdFault (Memory × Results)} (hw : SoundWrite w) (hs : s.Inv)
    (h : commitBuffer s b (w (s.cap b) (s.buf b)) = .next t) :
    commitBuffer t b (w (t.cap b) (t.buf b)) = .next t := by
  obtain ⟨m, r, hm, rfl⟩ | ⟨f, hf, rfl⟩ := commitBuffer_next h
  · have hbuf := ((inv_iff s).mp hs).1.buf b
    have hagain := (hw _ _ m r (cap_bounds s b).1 hbuf hm).2
    rw [respond_cap, respond_buf, setBuf_cap, setBuf_buf_self, hagain]
    cases b <;> rfl
  · rw [respond_cap, respond_buf, hf]
    rfl

/-! ### The invariant, through the stages of `XACT` -/

/-- The stage goes on in a state with `P`, or has ended in one with the invariant, or is silent. -/
def XStage.Keeps (P : State → Prop) : XStage → Prop
  | .goOn s => P s
  | .ended s _ _ => s.Inv
  | .silent => True

/-- Two stages, one after the other. -/
theorem XStage.Keeps.andThen {P Q : State → Prop} {p : XStage} {k : State → XStage} (hp : p.Keeps P)
    (hk : ∀ s, P s → (k s).Keeps Q) : (p.andThen k).Keeps Q := by
  cases p with
  | goOn s => exact hk s hp
  | ended s x r => exact hp
  | silent => trivial

/-- A transaction whose last stage keeps the invariant ends with it. -/
theorem inv_of_finishXact {p : XStage} {t : State} (hp : p.Keeps State.Inv) (h : finishXact p = .next t) :
    t.Inv := by
  cases p with
  | goOn s => cases h; exact hp
  | ended s x r => cases h; exact inv_respond _ hp
  | silent => cases h

theorem keeps_xactFail {P : State → Prop} {s : State} (x : XResult) (h : BuffersLegal s) :
    (xactFail s x).Keeps P := (inv_iff _).mpr ⟨h, rfl⟩

/-- Steps 1 and 2 (R332), behind the window check that admission made. -/
theorem keeps_xactFinalize {s : State} (msgType : Word) (h : BuffersLegal s) (h1 : 20 ≤ brOf s.req)
    (h2 : 44 + brOf s.req ≤ s.cap .req) :
    ((xactBegin s).andThen (xactFinalize msgType)).Keeps BuffersLegal :=
  h.withReq .requestFinalized (legalBuffer_finalizeBuffer msgType h.1 h1 h2)

theorem keeps_xactSend (s : State) (h : BuffersLegal s) : (xactSend s).Keeps BuffersLegal := by
  obtain he | he | ⟨st, -, he⟩ := xactSend_cases s <;> rw [he]
  · trivial
  · exact h
  · exact keeps_xactFail _ h

theorem keeps_xactAwait (always : Bool) (s : State) (h : BuffersLegal s) :
    (xactAwait always s).Keeps BuffersLegal := by
  unfold xactAwait
  split
  · exact h
  · exact (inv_iff _).mpr ⟨h, rfl⟩

theorem keeps_xactAwaitHeader (s : State) (h : BuffersLegal s) :
    (xactAwaitHeader s).Keeps BuffersLegal := by
  refine ⟨h.1, ?_⟩
  show LegalBuffer _ (if s.params.xactClearsRsp then zeroed s.rsp else s.rsp)
  split
  · exact legalBuffer_zeroed _ _
  · exact h.2

theorem keeps_xactHeader (s : State) (h : BuffersLegal s) : (xactHeader s).Keeps BuffersLegal := by
  have hcap := (cap_bounds s .rsp).1
  have hspan (bs : List Byte) (hl : bs.length = 44) : LegalBuffer (s.cap .rsp) (memWrite s.rsp 0 bs) :=
    legalBuffer_memWrite h.2 (by omega)
  obtain he | ⟨bs, hl, he | ⟨io, -, he⟩⟩ := xactHeader_cases s <;> rw [he]
  · trivial
  · exact ⟨h.1, hspan bs hl⟩
  · exact keeps_xactFail _ ⟨h.1, hspan bs hl⟩

/-- Step 6 (R336) asks for no more than the bytes that fit behind the header. -/
theorem keeps_xactRemainder (s : State) (h : BuffersLegal s) : (xactRemainder s).Keeps BuffersLegal := by
  obtain ⟨-, io, -, he⟩ | ⟨-, hfit, he | ⟨bs, hl, he | ⟨io, -, he⟩⟩⟩ := xactRemainder_cases s <;> rw [he]
  · exact keeps_xactFail _ h
  · trivial
  · exact ⟨h.1, legalBuffer_memWrite h.2 (by rwa [hl])⟩
  · exact keeps_xactFail _ ⟨h.1, legalBuffer_memWrite h.2 (by rwa [hl])⟩

theorem keeps_xactValidate (s : State) (h : BuffersLegal s) : (xactValidate s).Keeps BuffersLegal := by
  obtain he | ⟨x, -, -, he⟩ := xactValidate_cases s <;> rw [he]
  · exact h
  · exact keeps_xactFail x h

theorem keeps_xactClassify (s : State) (h : BuffersLegal s) : (xactClassify s).Keeps BuffersLegal := by
  obtain he | ⟨x, -, -, he⟩ := xactClassify_cases s <;> rw [he]
  · exact h
  · exact keeps_xactFail x h

/-- Step 8 (R339) always ends the transaction, with the sequencer at rest. -/
theorem keeps_xactDecode (decOp decArg : Byte) (off len : Word) (s : State) (h : BuffersLegal s) :
    (xactDecode decOp decArg off len s).Keeps State.Inv := by
  obtain ⟨x, r, -, -, he⟩ | ⟨x, -, -, he⟩ := xactDecode_cases decOp decArg off len s <;> rw [he]
  · exact (inv_iff _).mpr ⟨h, rfl⟩
  · exact keeps_xactFail x h

/-- The stages in order. -/
theorem keeps_runXact {s : State} (msgType : Word) (always : Bool) (decOp decArg : Byte) (off len : Word)
    (h : BuffersLegal s) (h1 : 20 ≤ brOf s.req) (h2 : 44 + brOf s.req ≤ s.cap .req) :
    (runXact msgType always decOp decArg off len s).Keeps State.Inv :=
  (keeps_xactFinalize msgType h h1 h2)
    |>.andThen keeps_xactSend
    |>.andThen (keeps_xactAwait always)
    |>.andThen keeps_xactAwaitHeader
    |>.andThen keeps_xactHeader
    |>.andThen keeps_xactRemainder
    |>.andThen keeps_xactValidate
    |>.andThen keeps_xactClassify
    |>.andThen (keeps_xactDecode decOp decArg off len)

/-- A transaction that is admitted has a request that lies in its buffer (R331). -/
theorem admitXact_ok {decOp : Byte} {s : State} (h : admitXact decOp s = .ok ()) :
    20 ≤ brOf s.req ∧ 44 + brOf s.req ≤ s.cap .req := by
  unfold admitXact at h
  split at h
  · exact window_ok_iff.mp h
  · cases h

/-- Everything `XACT` can do: fault at admission, or run its stages. -/
theorem execXact_cases (msgType : Word) (always : Bool) (decOp decArg : Byte) (off len : Word) (s : State) :
    (∃ f, execXact msgType always decOp decArg off len s = takeFault f s)
      ∨ (20 ≤ brOf s.req ∧ 44 + brOf s.req ≤ s.cap .req
        ∧ execXact msgType always decOp decArg off len s
          = finishXact (runXact msgType always decOp decArg off len s)) := by
  unfold execXact
  cases ha : admitXact decOp s with
  | error f => exact .inl ⟨f, rfl⟩
  | ok _ =>
    obtain ⟨h1, h2⟩ := admitXact_ok ha
    exact .inr ⟨h1, h2, rfl⟩

theorem inv_of_execXact {msgType : Word} {always : Bool} {decOp decArg : Byte} {off len : Word}
    {s t : State} (hs : s.Inv) (h : execXact msgType always decOp decArg off len s = .next t) : t.Inv := by
  obtain ⟨f, hf⟩ | ⟨h1, h2, hrun⟩ := execXact_cases msgType always decOp decArg off len s
  · cases hf.symm.trans h
    exact inv_respond _ hs
  · exact inv_of_finishXact
      (keeps_runXact msgType always decOp decArg off len ((inv_iff s).mp hs).1 h1 h2) (hrun.symm.trans h)

theorem inv_of_exec_transaction {i : Instr} {s t : State} (hc : (classOf i).1 = .transaction) (hs : s.Inv)
    (h : exec i s = .next t) : t.Inv := by
  cases i <;> cases hc
  case xact => exact inv_of_execXact hs h

/-- Every well-formed command keeps the invariant. -/
theorem inv_of_exec {i : Instr} {s t : State} (hwf : i.wellFormed = true) (hs : s.Inv)
    (h : exec i s = .next t) : t.Inv := by
  by_cases htr : (classOf i).1 = .transaction
  · exact inv_of_exec_transaction htr hs h
  · obtain hread | ⟨b, w, hw, hexec⟩ := read_or_soundWrite hwf htr
    · obtain ⟨r, hr⟩ := exec_read_respond s hread
      cases (hr s.response).symm.trans h
      exact inv_respond r hs
    · exact inv_of_commitBuffer hw hs ((hexec s).symm.trans h)

/-! ### The window check (R64) -/

theorem windowFaultSpec_answerQuery (s : State) (b : BufSel) (k : Except CmdFault Results) :
    windowFaultSpec b s (answerQuery s (withWindow (s.cap b) (s.buf b) k)) := by
  refine ⟨fun h => ?_, fun h1 h2 => ?_⟩
  · rw [withWindow_badLength h, answerQuery_error]; rfl
  · rw [withWindow_tooSmall h1 h2, answerQuery_error]; rfl

theorem windowFaultSpec_commitBuffer (s : State) (b : BufSel) (k : Except CmdFault (Memory × Results)) :
    windowFaultSpec b s (commitBuffer s b (withWindow (s.cap b) (s.buf b) k)) := by
  refine ⟨fun h => ?_, fun h1 h2 => ?_⟩
  · rw [withWindow_badLength h, commitBuffer_error]; rfl
  · rw [withWindow_tooSmall h1 h2, commitBuffer_error]; rfl

/-! ### The statements of 20_memory.md -/

/-- Settles O9: idle steps and rejected records keep both buffers and the sequencer, and every command the
decoder accepts keeps the invariant. -/
theorem stepKeepsInvariant : Obligations.StepKeepsInvariant := by
  intro s t hs h
  obtain rfl | ⟨rest, ⟨i, hwf, hexec⟩ | rfl⟩ := step_next h
  · exact hs
  · exact inv_of_exec (s := { s with port := rest }) hwf hs hexec
  · exact inv_respond (s := { s with port := rest }) _ hs

/-- Settles O13: a read takes its answer from the parameters and the buffers, and changes neither. -/
theorem readCommandsChangeNoState : Obligations.ReadCommandsChangeNoState := by
  intro i s hc
  obtain ⟨r, hr⟩ := exec_read_respond s hc
  exact ⟨r, hr s.response, hr (some r)⟩

/-- Settles O15: a read answers from what it leaves alone, and a write finds what it wrote. -/
theorem repeatedCommandChangesNothing : Obligations.RepeatedCommandChangesNothing := by
  intro i s t hs hwf htr h
  obtain hread | ⟨b, w, hw, hexec⟩ := read_or_soundWrite hwf htr
  · obtain ⟨r, hr⟩ := exec_read_respond s hread
    cases (hr s.response).symm.trans h
    exact hr (some r)
  · rw [hexec] at h ⊢
    exact commitBuffer_again hw hs h

/-- Settles O5: the record at the front of the port is taken, and its instruction run. -/
theorem stepRunsDecodedCommand : Obligations.StepRunsDecodedCommand :=
  fun _ _ _ _ hport hdecode => step_of_instr hport hdecode

/-- Settles O31: each of the eight commands is a query or a commit behind the window check; `SET_CKSUM` of
sixteen bytes passes the test it makes before. -/
theorem windowFaultsInOrder : Obligations.WindowFaultsInOrder := by
  intro s b wbytes msgType
  have query := windowFaultSpec_answerQuery s b
  have commit := windowFaultSpec_commitBuffer s b
  exact ⟨commit _, query _, query _, commit _, commit _, query _, query _, commit _⟩

/-- Settles O38: `44 + BR` is below `2^64` because `BR` is a 32-bit field. -/
theorem msgSizeNeverWraps : Obligations.MsgSizeNeverWraps := by
  intro s b
  have hbr := brOf_lt (s.buf b)
  exact ⟨rfl, by rw [BitVec.toNat_ofNat, Nat.mod_eq_of_lt (by omega)]⟩

end Sys2Proof.Machine

namespace Sys2Proof

/-! ### The command word (R98) -/

/-- The opcode of an assembled command word. -/
theorem opcodeOf_commandWord (op : Byte) (b : BufSel) : opcodeOf (commandWord op b) = op :=
  BitVec.extractLsb'_append_eq_right

/-- The buffer select of an assembled command word. -/
theorem bselOf_commandWord (op : Byte) (b : BufSel) : bselOf (commandWord op b) = b := by
  have hbit : (commandWord op b).getLsbD 8 = b.bit.getLsbD 0 := by
    rw [commandWord, BitVec.getLsbD_append, if_neg (by decide), BitVec.getLsbD_append, if_pos (by decide)]
  rw [bselOf, hbit]
  cases b <;> rfl

/-- The buffer select as the bit of the word it is read from. -/
theorem bit_bselOf (cw : Half) : (bselOf cw).bit = cw.extractLsb' 8 1 := by
  apply BitVec.eq_of_getLsbD_eq
  intro i hi
  obtain rfl : i = 0 := by omega
  rw [BitVec.getLsbD_extractLsb', bselOf]
  cases cw.getLsbD 8 <;> rfl

/-- A command word without reserved bits is assembled of its opcode and its buffer select. -/
theorem commandWord_of_reservedOf {cw : Half} (h : reservedOf cw = 0) :
    commandWord (opcodeOf cw) (bselOf cw) = cw := by
  have hrsvd : 0#7 = cw.extractLsb' 9 7 := h.symm
  rw [commandWord, bit_bselOf, hrsvd, opcodeOf,
    BitVec.extractLsb'_append_extractLsb'_eq_extractLsb' (by rfl),
    BitVec.extractLsb'_append_extractLsb'_eq_extractLsb' (by rfl), BitVec.extractLsb'_eq_self]

/-! ### The decoder on an assembled command word (R99, R101) -/

/-- A record with an assembled command word decodes by the opcode map. -/
theorem decode_commandWord (op : Byte) (b : BufSel) (off len : Word) (wdata : Dword) (wbytes : List Byte) :
    decode ⟨commandWord op b, off, len, wdata, wbytes⟩
      = decodeOp b ⟨commandWord op b, off, len, wdata, wbytes⟩ op.toNat := by
  rw [decode, if_pos (Laws.ReservedBitsZero.commandWord_reserved op b), opcodeOf_commandWord,
    bselOf_commandWord]

/-- The opcode map gives `i`, whose operands are those of `j`. -/
theorem decode_commandWord_eq_ok {op : Byte} {b : BufSel} {off len : Word} {wdata : Dword}
    {wbytes : List Byte} {i j : Instr}
    (hi : decodeOp b ⟨commandWord op b, off, len, wdata, wbytes⟩ op.toNat = .ok i) (hij : i = j) :
    decode ⟨commandWord op b, off, len, wdata, wbytes⟩ = .ok j := by
  rw [decode_commandWord, hi, hij]

/-- A record that holds the `len` bytes its command reads is accepted (R97). -/
theorem decodeBytes_of_length {c : Command} (i : Instr) (h : c.wbytes.length = c.len.toNat) :
    decodeBytes c i = .ok i := if_pos h

/-- An operand carried in `wdata` is read back from its low bits (R101). -/
theorem setWidth_wdata {w : Nat} (v : BitVec w) (h : w ≤ 64) : (v.setWidth 64).setWidth w = v := by
  rw [BitVec.setWidth_setWidth_of_le v h, BitVec.setWidth_eq]

/-- The `wdata` of `XACT` (R101): from the top, eight zero bits, `decArg`, `decOp`, seven zero bits, `always`
and the message type. -/
def xactWdata (t : Word) (always : Bool) (decOp decArg : Byte) : Dword :=
  0#8 ++ decArg ++ decOp ++ 0#7 ++ BitVec.ofBool always ++ t

section xactWdata
variable (t : Word) (always : Bool) (decOp decArg : Byte)

theorem encode_xact (off len : Word) :
    encode (.xact t always decOp decArg off len)
      = ⟨commandWord 0x73 .req, off, len, xactWdata t always decOp decArg, []⟩ := rfl

theorem xactWdata_msgType : (xactWdata t always decOp decArg).setWidth 32 = t :=
  BitVec.setWidth_append_eq_right

theorem xactWdata_always : (xactWdata t always decOp decArg).getLsbD 32 = always := by
  rw [xactWdata, BitVec.getLsbD_append, if_neg (by decide), BitVec.getLsbD_append, if_pos (by decide)]
  cases always <;> rfl

theorem xactWdata_decOp : (xactWdata t always decOp decArg).extractLsb' 40 8 = decOp := by
  rw [xactWdata, BitVec.extractLsb'_append_eq_of_le (by decide),
    BitVec.extractLsb'_append_eq_of_le (by decide), BitVec.extractLsb'_append_eq_of_le (by decide)]
  exact BitVec.extractLsb'_append_eq_right

theorem xactWdata_decArg : (xactWdata t always decOp decArg).extractLsb' 48 8 = decArg := by
  rw [xactWdata, BitVec.extractLsb'_append_eq_of_le (by decide),
    BitVec.extractLsb'_append_eq_of_le (by decide), BitVec.extractLsb'_append_eq_of_le (by decide),
    BitVec.extractLsb'_append_eq_of_le (by decide)]
  exact BitVec.extractLsb'_append_eq_right

end xactWdata

/-- A well-formed instruction is what its record decodes to. An operand that is not in `wdata` is a field of
the record; one that is, is read back from its bits. -/
theorem decode_encode {i : Instr} (hwf : i.wellFormed = true) : decode (encode i) = .ok i := by
  cases i
  case setSync | setVer | setFlags | setErrno | setMsgtype | setRegarding | setRsvd | setCktype | setImmlen
      | setBytesrem | setImmByte | setImmShort | setImmInt | setImmFloat | setPayByte | setPayShort
      | setPayInt | setPayFloat | getString | finalize =>
    exact decode_commandWord_eq_ok rfl (congrArg _ (setWidth_wdata _ (by decide)))
  case setImmBytes | setPayBytes | setCksum =>
    exact decode_commandWord_eq_ok (decodeBytes_of_length _ (beq_iff_eq.mp hwf)) rfl
  case putAuto =>
    exact decode_commandWord_eq_ok (decodeBytes_of_length _ (beq_iff_eq.mp hwf))
      (congrArg _ (setWidth_wdata _ (by decide)))
  case xact t always decOp decArg off len =>
    rw [encode_xact]
    refine decode_commandWord_eq_ok rfl ?_
    rw [xactWdata_msgType, xactWdata_always, xactWdata_decOp, xactWdata_decArg]
  all_goals exact decode_commandWord_eq_ok rfl rfl

/-! ### What the decoder accepts -/

/-- The instruction the opcode map gives encodes to the opcode and the buffer select it was given. -/
theorem encode_cw_of_decodeOp {b : BufSel} {c : Command} {op : Nat} {i : Instr}
    (h : decodeOp b c op = .ok i) : (encode i).cw = commandWord (BitVec.ofNat 8 op) b := by
  unfold decodeOp at h
  split at h
  case h_65 => cases b <;> cases h; rfl
  case h_66 => cases h
  case h_29 | h_43 | h_54 | h_59 => obtain ⟨-, rfl⟩ := Machine.decodeBytes_eq_ok h; rfl
  all_goals cases h; rfl

/-- What the decoder accepts encodes to the command word it was read from. -/
theorem encode_cw_of_decode {c : Command} {i : Instr} (h : decode c = .ok i) : (encode i).cw = c.cw := by
  unfold decode at h
  split at h
  · next hr =>
    rw [encode_cw_of_decodeOp h, BitVec.ofNat_toNat, BitVec.setWidth_eq, commandWord_of_reservedOf hr]
  · cases h

/-! ### What the decoder rejects (R100) -/

/-- The opcodes in the gaps of the opcode map (R99, R100). -/
def opcodeGap (op : Nat) : Prop :=
  op = 0x00 ∨ (0x03 ≤ op ∧ op ≤ 0x0F) ∨ (0x1A ≤ op ∧ op ≤ 0x1F) ∨ (0x2A ≤ op ∧ op ≤ 0x2F)
    ∨ op = 0x37 ∨ op = 0x3F ∨ op = 0x47 ∨ op = 0x4F ∨ (0x58 ≤ op ∧ op ≤ 0x5F)
    ∨ (0x63 ≤ op ∧ op ≤ 0x6F) ∨ 0x74 ≤ op

theorem decodeBytes_ne_illegalOp (c : Command) (i : Instr) : decodeBytes c i ≠ .error .illegalOp := by
  unfold decodeBytes
  split <;> simp

/-- The opcode map rejects as `IllegalOp` exactly its gaps, and `XACT` with `bsel = 1`. -/
theorem decodeOp_eq_illegalOp_iff {b : BufSel} {c : Command} {op : Nat} :
    decodeOp b c op = .error .illegalOp ↔ opcodeGap op ∨ (op = 0x73 ∧ b = .rsp) := by
  unfold decodeOp
  split
  case h_65 => cases b <;> simp [opcodeGap]
  case h_66 =>
    refine iff_of_true rfl (.inl ?_)
    simp only [imp_false] at *
    unfold opcodeGap
    omega
  case h_29 | h_43 | h_54 | h_59 =>
    exact iff_of_false (decodeBytes_ne_illegalOp _ _) (by simp [opcodeGap])
  all_goals exact iff_of_false nofun (by simp [opcodeGap])

theorem opcodeOf_toNat (cw : Half) : (opcodeOf cw).toNat = cw.toNat % 256 := by
  simp [opcodeOf]

theorem reservedOf_eq_zero_iff (cw : Half) : reservedOf cw = 0 ↔ cw.toNat / 512 = 0 := by
  have hlt : cw.toNat / 512 < 128 := by omega
  rw [← BitVec.toNat_inj, reservedOf, BitVec.extractLsb'_toNat, Nat.shiftRight_eq_div_pow,
    Nat.mod_eq_of_lt hlt]
  rfl

theorem bselOf_eq_rsp_iff (cw : Half) : bselOf cw = .rsp ↔ cw.getLsbD 8 = true := by
  simp [bselOf]

end Sys2Proof

namespace Sys2Proof.Machine

/-- R100's list in terms of the decoder: reserved bits, a gap of the opcode map, or `XACT` with `bsel = 1`. -/
theorem undefinedWord_iff (cw : Half) :
    undefinedWord cw ↔ reservedOf cw ≠ 0 ∨ opcodeGap (opcodeOf cw).toNat
      ∨ ((opcodeOf cw).toNat = 0x73 ∧ bselOf cw = .rsp) := by
  rw [ne_eq, reservedOf_eq_zero_iff, opcodeOf_toNat, bselOf_eq_rsp_iff]
  exact or_congr_right or_comm

/-- The decoder answers `illegalOp` to exactly the words R100 lists, whatever the operands. -/
theorem decode_eq_illegalOp_iff (c : Command) :
    decode c = .error .illegalOp ↔ undefinedWord c.cw := by
  rw [undefinedWord_iff]
  by_cases hr : reservedOf c.cw = 0
  · rw [decode, if_pos hr, decodeOp_eq_illegalOp_iff]
    exact (or_iff_right (not_not_intro hr)).symm
  · rw [decode, if_neg hr]
    exact iff_of_true rfl (.inl hr)

/-! ### The response of every command (R97, R360) -/

/-- The response in `t` is that of a command other than `XACT`: a status of R360, and no transaction result. -/
def AnsweredPlainly (t : State) : Prop :=
  ∃ r, t.response = some r ∧ r.status.toNat ≤ 5 ∧ r.xres = 0

theorem answeredPlainly_ok (s : State) (r : Results) : AnsweredPlainly (s.respond (okResponse r)) :=
  ⟨okResponse r, rfl, Nat.zero_le 5, rfl⟩

theorem answeredPlainly_fault (s : State) (f : CmdFault) : AnsweredPlainly (s.respond (faultResponse f)) := by
  refine ⟨faultResponse f, rfl, ?_, rfl⟩
  show f.code.toNat ≤ 5
  cases f <;> simp [CmdFault.code]

theorem answeredPlainly_of_answerQuery {s t : State} {q : Except CmdFault Results}
    (h : answerQuery s q = .next t) : AnsweredPlainly t := by
  obtain ⟨r, -, rfl⟩ | ⟨f, -, rfl⟩ := answerQuery_next h
  · exact answeredPlainly_ok s r
  · exact answeredPlainly_fault s f

theorem answeredPlainly_of_commitBuffer {s t : State} {b : BufSel}
    {q : Except CmdFault (Memory × Results)} (h : commitBuffer s b q = .next t) : AnsweredPlainly t := by
  obtain ⟨m, r, -, rfl⟩ | ⟨f, -, rfl⟩ := commitBuffer_next h
  · exact answeredPlainly_ok (s.setBuf b m) r
  · exact answeredPlainly_fault s f

/-- The parameters, which no command changes (R400), and the commands the host will present are those of `s`. -/
def KeepsHostSide (s t : State) : Prop := t.params = s.params ∧ t.port = s.port

/-- Every command but `XACT` selects a buffer, and ends as a query or as a commit of it. -/
theorem plainAnswer_of_exec {i : Instr} {s t : State} (hc : (classOf i).1 ≠ .transaction)
    (h : exec i s = .next t) : KeepsHostSide s t ∧ AnsweredPlainly t := by
  have commit {b : BufSel} {q} (hq : exec i s = commitBuffer s b q) :
      KeepsHostSide s t ∧ AnsweredPlainly t := by
    obtain ⟨hparams, -, -, hport, -, -⟩ := sameOutside_of_commitBuffer (hq.symm.trans h)
    exact ⟨⟨hparams, hport⟩, answeredPlainly_of_commitBuffer (hq.symm.trans h)⟩
  obtain hread | ⟨b, hlife | hbuild⟩ := classOf_cases hc
  · obtain ⟨q, hq⟩ := exec_of_read s hread
    obtain ⟨hparams, -, -, hport, -, -⟩ := sameOutside_of_answerQuery .req (hq.symm.trans h)
    exact ⟨⟨hparams, hport⟩, answeredPlainly_of_answerQuery (hq.symm.trans h)⟩
  · obtain ⟨q, hq⟩ := exec_of_lifecycle s hlife
    exact commit hq
  · obtain ⟨q, hq, -⟩ := exec_of_build s hbuild
    exact commit hq

/-! ### The stages of `XACT` leave the parameters and the port alone -/

/-- The stage goes on in a state with `P`, or has ended in one with `Q`, or is silent. -/
def XStage.Meets (P Q : State → Prop) : XStage → Prop
  | .goOn s => P s
  | .ended s _ _ => Q s
  | .silent => True

/-- Two stages, one after the other. -/
theorem XStage.Meets.andThen {P P' Q : State → Prop} {p : XStage} {k : State → XStage} (hp : p.Meets P Q)
    (hk : ∀ s, P s → (k s).Meets P' Q) : (p.andThen k).Meets P' Q := by
  cases p with
  | goOn s => exact hk s hp
  | ended s x r => exact hp
  | silent => trivial

section stages
variable {s u : State}

theorem hostSide_xactSend (h : KeepsHostSide s u) :
    (xactSend u).Meets (KeepsHostSide s) (KeepsHostSide s) := by
  obtain he | he | ⟨st, -, he⟩ := xactSend_cases u <;> rw [he]
  exacts [trivial, h, h]

theorem hostSide_xactAwait (always : Bool) (h : KeepsHostSide s u) :
    (xactAwait always u).Meets (KeepsHostSide s) (KeepsHostSide s) := by
  unfold xactAwait
  split
  · exact h
  · exact h

theorem hostSide_xactHeader (h : KeepsHostSide s u) :
    (xactHeader u).Meets (KeepsHostSide s) (KeepsHostSide s) := by
  obtain he | ⟨bs, -, he | ⟨io, -, he⟩⟩ := xactHeader_cases u <;> rw [he]
  exacts [trivial, h, h]

theorem hostSide_xactRemainder (h : KeepsHostSide s u) :
    (xactRemainder u).Meets (KeepsHostSide s) (KeepsHostSide s) := by
  obtain ⟨-, io, -, he⟩ | ⟨-, -, he | ⟨bs, -, he | ⟨io, -, he⟩⟩⟩ := xactRemainder_cases u <;> rw [he]
  exacts [h, trivial, h, h]

theorem hostSide_xactValidate (h : KeepsHostSide s u) :
    (xactValidate u).Meets (KeepsHostSide s) (KeepsHostSide s) := by
  obtain he | ⟨x, -, -, he⟩ := xactValidate_cases u <;> rw [he]
  exacts [h, h]

theorem hostSide_xactClassify (h : KeepsHostSide s u) :
    (xactClassify u).Meets (KeepsHostSide s) (KeepsHostSide s) := by
  obtain he | ⟨x, -, -, he⟩ := xactClassify_cases u <;> rw [he]
  exacts [h, h]

theorem hostSide_xactAwaitHeader (h : KeepsHostSide s u) :
    (xactAwaitHeader u).Meets (KeepsHostSide s) (KeepsHostSide s) := h

/-- Step 8 (R339) does not go on: it ends the transaction. -/
theorem hostSide_xactDecode (decOp decArg : Byte) (off len : Word) (h : KeepsHostSide s u) :
    (xactDecode decOp decArg off len u).Meets (fun _ => False) (KeepsHostSide s) := by
  obtain ⟨x, r, -, -, he⟩ | ⟨x, -, -, he⟩ := xactDecode_cases decOp decArg off len u <;> rw [he]
  exacts [h, h]

end stages

/-- The stages in order: they never go on past the last. -/
theorem hostSide_runXact (msgType : Word) (always : Bool) (decOp decArg : Byte) (off len : Word) (s : State) :
    (runXact msgType always decOp decArg off len s).Meets (fun _ => False) (KeepsHostSide s) :=
  have finalized : ((xactBegin s).andThen (xactFinalize msgType)).Meets (KeepsHostSide s) (KeepsHostSide s) :=
    ⟨rfl, rfl⟩
  finalized
    |>.andThen (fun _ => hostSide_xactSend)
    |>.andThen (fun _ => hostSide_xactAwait always)
    |>.andThen (fun _ => hostSide_xactAwaitHeader)
    |>.andThen (fun _ => hostSide_xactHeader)
    |>.andThen (fun _ => hostSide_xactRemainder)
    |>.andThen (fun _ => hostSide_xactValidate)
    |>.andThen (fun _ => hostSide_xactClassify)
    |>.andThen (fun _ => hostSide_xactDecode decOp decArg off len)

/-- A transaction that has ended answers with status `OK` (R330). -/
theorem finishXact_next {p : XStage} {s t : State} (hp : p.Meets (fun _ => False) (KeepsHostSide s))
    (h : finishXact p = .next t) :
    KeepsHostSide s t ∧ ∃ x r, t.response = some (xactResponse x r) := by
  cases p with
  | goOn u => exact hp.elim
  | ended u x r => cases h; exact ⟨hp, x, r, rfl⟩
  | silent => cases h

/-- `XACT` faults at admission like any command, or ends with status `OK` and a transaction result. -/
theorem answer_of_execXact {msgType : Word} {always : Bool} {decOp decArg : Byte} {off len : Word}
    {s t : State} (h : execXact msgType always decOp decArg off len s = .next t) :
    KeepsHostSide s t ∧ (AnsweredPlainly t ∨ ∃ x r, t.response = some (xactResponse x r)) := by
  obtain ⟨f, hf⟩ | ⟨-, -, hrun⟩ := execXact_cases msgType always decOp decArg off len s
  · cases hf.symm.trans h
    exact ⟨⟨rfl, rfl⟩, .inl (answeredPlainly_fault s f)⟩
  · obtain ⟨hkeeps, hresponse⟩ :=
      finishXact_next (hostSide_runXact msgType always decOp decArg off len s) (hrun.symm.trans h)
    exact ⟨hkeeps, .inr hresponse⟩

theorem answer_of_exec_transaction {i : Instr} {s t : State} (hc : (classOf i).1 = .transaction)
    (h : exec i s = .next t) :
    KeepsHostSide s t ∧ (AnsweredPlainly t ∨ ∃ x r, t.response = some (xactResponse x r)) := by
  cases i <;> cases hc
  case xact => exact answer_of_execXact h

/-- Everything a command that ends can have answered. -/
theorem answer_of_exec {i : Instr} {s t : State} (h : exec i s = .next t) :
    KeepsHostSide s t
      ∧ (AnsweredPlainly t
        ∨ ((classOf i).1 = .transaction ∧ ∃ x r, t.response = some (xactResponse x r))) := by
  by_cases hc : (classOf i).1 = .transaction
  · obtain ⟨hkeeps, hresponse⟩ := answer_of_exec_transaction hc h
    exact ⟨hkeeps, hresponse.imp_right fun hx => ⟨hc, hx⟩⟩
  · obtain ⟨hkeeps, hplain⟩ := plainAnswer_of_exec hc h
    exact ⟨hkeeps, .inl hplain⟩

/-! ### The expansion of `FINALIZE` (R103) -/

@[simp] theorem respond_setBuf (s : State) (r : Response) (b : BufSel) (m : Memory) :
    (s.respond r).setBuf b m = (s.setBuf b m).respond r := by cases b <;> rfl

@[simp] theorem respond_respond (s : State) (r q : Response) : (s.respond r).respond q = s.respond q := rfl

theorem execSeq_cons_of_next {i : Instr} {s t : State} (rest : List Instr) (h : exec i s = .next t) :
    execSeq (i :: rest) s = execSeq rest t := by
  rw [execSeq, h]

theorem exec_setMsgtype (s : State) (b : BufSel) (v : Word) :
    exec (.setMsgtype b v) s
      = .next ((s.setBuf b (setField (s.buf b) fMsgtype v.toNat)).respond (okResponse {})) := rfl

/-- `CKSUM_COMPUTE` behind a window that passes. -/
theorem exec_cksumCompute {s : State} {b : BufSel} (h : windowPasses s b) :
    exec (.cksumCompute b) s
      = .next ((s.setBuf b (writeChecksum (s.buf b))).respond (okResponse {})) := by
  show commitBuffer s b (withWindow (s.cap b) (s.buf b) _) = _
  rw [withWindow_ok h.1 h.2, commitBuffer_ok]

/-- `SET_FOOTER` behind a window that passes. -/
theorem exec_setFooter {s : State} {b : BufSel} (h : windowPasses s b) :
    exec (.setFooter b) s
      = .next ((s.setBuf b (writeFooter (s.buf b))).respond (okResponse {})) := by
  show commitBuffer s b (withWindow (s.cap b) (s.buf b) _) = _
  rw [withWindow_ok h.1 h.2, commitBuffer_ok]

/-- A commit that keeps bytes-remaining keeps the window passing. -/
theorem windowPasses_commit {s : State} {b : BufSel} {m : Memory} (r : Response)
    (hm : brOf m = brOf (s.buf b)) (h : windowPasses s b) :
    windowPasses ((s.setBuf b m).respond r) b := by
  simpa [windowPasses, msgLen_eq, hm] using h

/-- The three commands commit the three writes of `FINALIZE`, in its order. -/
theorem execSeq_finalizeExpansion {s : State} {b : BufSel} (t : Word) (h : windowPasses s b) :
    execSeq (finalizeExpansion b t) s
      = .next ((s.setBuf b (finalizeBuffer t (s.buf b))).respond (okResponse {})) := by
  have htyped := windowPasses_commit (okResponse {})
    (brOf_setField (s.buf b) fMsgtype t.toNat (by decide)) h
  have hsummed := windowPasses_commit (okResponse {}) (brOf_writeChecksum _) htyped
  rw [finalizeExpansion, execSeq_cons_of_next _ (exec_setMsgtype s b t),
    execSeq_cons_of_next _ (exec_cksumCompute htyped), execSeq_cons_of_next _ (exec_setFooter hsummed)]
  simp [finalizeBuffer]

/-! ### One bit of the flags (R86, R103) -/

theorem flagMask_getLsbD (pos q : Fin 16) : (flagMask pos).getLsbD q.val = decide (q = pos) := by
  revert pos q
  decide

/-- The word `SET_ACK_REQUEST` writes has `v` at the host-ack-request bit and the old flags elsewhere. -/
theorem withAckRequest_getLsbD (p : FlagPositions) (f : Half) (v : Bool) (q : Fin 16) :
    (withAckRequest p f v).getLsbD q.val = if q = p.ackRequest then v else f.getLsbD q.val := by
  have hset : (if v then flagMask p.ackRequest else 0).getLsbD q.val = (v && decide (q = p.ackRequest)) := by
    cases v
    · exact BitVec.getLsbD_zero
    · exact flagMask_getLsbD p.ackRequest q
  rw [withAckRequest, BitVec.getLsbD_or, BitVec.getLsbD_and, BitVec.getLsbD_not, flagMask_getLsbD, hset]
  by_cases h : q = p.ackRequest <;> simp [h]

/-- A flag of a flags word that has been written. -/
theorem flagAt_setField_flags (m : Memory) (w : Half) (q : Fin 16) :
    flagAt (setField m fFlags w.toNat) q = w.getLsbD q.val := by
  have hw : w.toNat % 256 ^ fFlags.width = w.toNat := Nat.mod_eq_of_lt w.isLt
  rw [flagAt, getField_setField_same, hw]
  rfl

/-- The flags word that `SET_ACK_REQUEST` takes from the `rdata` of its `GET_FLAGS` (R103). -/
def flagsWord (m : Memory) : Half := (BitVec.ofNat 64 (getField m fFlags)).setWidth 16

theorem flagsWord_getLsbD (m : Memory) (q : Fin 16) : (flagsWord m).getLsbD q.val = flagAt m q := by
  rw [flagsWord, BitVec.getLsbD_setWidth, BitVec.getLsbD_ofNat, flagAt]
  have h64 : q.val < 64 := by omega
  simp [h64]

theorem exec_getFlags (b : BufSel) (s : State) :
    exec (.getFlags b) s = .next (s.respond (okResponse (scalarResult (getField (s.buf b) fFlags)))) := rfl

theorem exec_setFlags (b : BufSel) (w : Half) (s : State) :
    exec (.setFlags b w) s
      = .next ((s.setBuf b (setField (s.buf b) fFlags w.toNat)).respond (okResponse {})) := rfl

/-- `SET_ACK_REQUEST` commits the flags word it makes of the one it read. -/
theorem setAckRequest_eq (b : BufSel) (v : Bool) (s : State) :
    setAckRequest b v s
      = .next ((s.setBuf b (setField (s.buf b) fFlags
          (withAckRequest s.params.flags (flagsWord (s.buf b)) v).toNat)).respond (okResponse {})) := by
  rw [setAckRequest, exec_getFlags]
  simp only [respond_response, exec_setFlags, respond_buf, respond_setBuf, respond_respond]
  rfl

/-! ### The names of the error numbers (R91, R92) -/

theorem errName_firmware {code : Half} (h1 : 100 ≤ code.toNat) (h2 : code.toNat ≤ 104) :
    errName code = "firmware-reprogramming-" ++ toString code.toNat := by
  rw [errName, if_neg (by omega), if_pos ⟨h1, h2⟩]

theorem errName_unknown {code : Half} (h1 : 16 ≤ code.toNat) (h2 : code.toNat < 100 ∨ 104 < code.toNat) :
    errName code = "unknown-" ++ toString code.toNat := by
  rw [errName, if_neg (by omega), if_neg (by omega)]

/-! ### The statements of 30_encoding.md -/

/-- Settles O1: every operand is read back from where the encoder put it. -/
theorem decodeOfEncodeIsInstr : Obligations.DecodeOfEncodeIsInstr :=
  fun _ => decode_encode

/-- Settles O2, by the rows of the opcode map. -/
theorem decodedCommandsAreWellFormed : Obligations.DecodedCommandsAreWellFormed :=
  fun _ _ h => ⟨wellFormed_of_decode h, encode_cw_of_decode h⟩

/-- Settles O3: the decoder rejects exactly R100's words, and the step then takes the fault `IllegalOp`. -/
theorem undefinedWordsFaultIllegalOp : Obligations.UndefinedWordsFaultIllegalOp := by
  intro c s
  refine ⟨fun h => ?_, fun h => mt (decode_eq_illegalOp_iff c).mp h⟩
  exact step_of_reject (s := s.present c) rfl ((decode_eq_illegalOp_iff c).mpr h)

/-- Settles O11: `XACT` that ends after admission has status `OK`; every other end has no transaction result. -/
theorem everyCommandAnswers : Obligations.EveryCommandAnswers := by
  intro i s t h
  obtain ⟨⟨hparams, hport⟩, ⟨r, hr, hstatus, hxres⟩ | ⟨hc, x, r, hr⟩⟩ := answer_of_exec h
  · exact ⟨hparams, hport, r, hr, hstatus, fun _ => hxres, fun _ => hxres⟩
  · exact ⟨hparams, hport, xactResponse x r, hr, Nat.zero_le 5, fun hn => absurd hc hn,
      fun hs => absurd rfl hs⟩

/-- Settles O46: both commit the same buffer. -/
theorem finalizeEqualsExpansion : Obligations.FinalizeEqualsExpansion := by
  intro s b t h
  have hfinalize := exec_finalize t h.1 h.2
  exact ⟨(execSeq_finalizeExpansion t h).trans hfinalize.symm, _, hfinalize⟩

/-- Settles O60: the word written differs from the one read in one bit, and the write stays inside `FLAGS`. -/
theorem setAckRequestChangesOneFlag : Obligations.SetAckRequestChangesOneFlag := by
  intro s b v
  refine ⟨_, setAckRequest_eq b v s, ?_, fun pos hpos => ?_, fun x hx => ?_⟩
  · rw [respond_buf, setBuf_buf_self, ackRequested, flagAt_setField_flags, withAckRequest_getLsbD, if_pos rfl]
  · rw [respond_buf, setBuf_buf_self, flagAt_setField_flags, withAckRequest_getLsbD, if_neg hpos,
      flagsWord_getLsbD]
  · rw [respond_byte, byte_eq, setBuf_buf_self, byte_eq]
    exact readByte_setField_out _ _ _ _ hx

/-- Settles O4: the opcode map and the operand slices, on one written-out record per family. -/
theorem sampleWordsDecode : Obligations.SampleWordsDecode :=
  ⟨rfl, rfl, rfl, rfl, rfl, rfl, rfl, rfl, rfl, rfl, rfl⟩

/-- Settles O59: the listed codes by evaluation, the placeholders by the branches of `errName`. -/
theorem codesAndErrorNames : Obligations.CodesAndErrorNames :=
  ⟨rfl, rfl, rfl, fun _ => ⟨errName_firmware, errName_unknown⟩⟩

end Sys2Proof.Machine

namespace Sys2Proof.Machine

/-! ### A commit that returns nothing -/

theorem commitBuffer_completes (s : State) (b : BufSel) (m : Memory) :
    ∃ t, commitBuffer s b (.ok (m, {})) = .next t ∧ completed 0 0 t ∧ sameOutside b s t ∧ t.buf b = m :=
  ⟨_, rfl, rfl, sameOutside_commit s b m _, by rw [respond_buf, setBuf_buf_self]⟩

/-! ### The buffer `INIT` leaves (R131) -/

/-- The listed bytes, whatever the buffer held before: the whole capacity is zeroed first. -/
theorem initBuffer_cells (m : Memory) :
    initBuffer m
      = [(0, 0xC1), (1, 0xC0), (3, 0x11), (40, 0x14), (60, 0xC5), (61, 0xC4), (62, 0xC3), (63, 0xC2)] := by
  show initBuffer [] = _
  decide

theorem readByte_initBuffer (m : Memory) (a : Nat) :
    readByte (initBuffer m) a =
      if a = 0 then 0xC1 else if a = 1 then 0xC0 else if a = 3 then 0x11 else if a = 40 then 0x14
      else if a = 60 then 0xC5 else if a = 61 then 0xC4 else if a = 62 then 0xC3 else if a = 63 then 0xC2
      else 0 := by
  simp only [initBuffer_cells, readByte_cons, readByte_nil, unlistedByte, @eq_comm Nat a]

@[simp] theorem brOf_initBuffer (m : Memory) : brOf (initBuffer m) = 20 :=
  (brOf_memWrite _ _ _ (.inl (by decide))).trans (brOf_setField_bytesrem _ minBr (by decide))

/-- The checksum type is none, so the expected checksum is the sixteen zeros that stand there (R131 (b), (c)). -/
theorem memRead_cksum_initBuffer (m : Memory) :
    memRead (initBuffer m) (ckOff (initBuffer m)) ckLen = expectedChecksum (initBuffer m) := by
  have hoff : ckOff (initBuffer m) = 44 := by rw [ckOff_eq, brOf_initBuffer]
  have htype : getField (initBuffer m) fCktype ≠ 1 := by simp [cktype_eq, readByte_initBuffer]
  rw [expectedChecksum, if_neg htype, hoff, initBuffer_cells]
  decide

theorem footerOk_initBuffer (m : Memory) : footerOk (initBuffer m) = true := by
  have hoff : ftOff (initBuffer m) = 60 := by rw [ftOff_eq, brOf_initBuffer]
  rw [footerOk, hoff, initBuffer_cells]
  decide

/-! ### The checksum and footer queries behind the window check -/

/-- `CKSUM_MATCH` behind a window that passes (R255). -/
theorem exec_cksumMatch {s : State} {b : BufSel} (h : windowPasses s b) :
    exec (.cksumMatch b) s
      = answersWith (if memRead (s.buf b) (ckOff (s.buf b)) ckLen = expectedChecksum (s.buf b) then 1 else 0)
          [] 0 s := by
  show answerQuery s (withWindow (s.cap b) (s.buf b) _) = _
  rw [withWindow_ok h.1 h.2, answerQuery_ok]
  rfl

/-- `CHECK_FOOTER` behind a window that passes (R264). -/
theorem exec_checkFooter {s : State} {b : BufSel} (h : windowPasses s b) :
    exec (.checkFooter b) s = answersWith (if footerOk (s.buf b) then 1 else 0) [] 0 s := by
  show answerQuery s (withWindow (s.cap b) (s.buf b) _) = _
  rw [withWindow_ok h.1 h.2, answerQuery_ok]
  rfl

/-! ### The buffer `CLEAR` leaves (R133) -/

theorem getField_zeroed (m : Memory) (f : Field) : getField (zeroed m) f = 0 := by
  have hzero : memRead (zeroed m) f.offset f.width = leBytes f.width 0 := by
    refine List.ext_getElem (by simp) fun i _ _ => ?_
    rw [memRead_getElem, readByte_zeroed, leBytes_getElem, Nat.zero_div]
    rfl
  rw [getField, hzero, leValue_leBytes, Nat.zero_mod]

@[simp] theorem brOf_zeroed (m : Memory) : brOf (zeroed m) = 0 := getField_zeroed m fBytesrem

/-! ### The payload and marshalling reads without a valid length (R214, R288) -/

theorem answerQuery_scalarRead_badLength {s : State} {b : BufSel} (off n : Nat) (h : brOf (s.buf b) < 20) :
    answerQuery s (scalarRead (payRead (s.cap b) (s.buf b) off n)) = faultsWith 3 (brOf (s.buf b)) s := by
  rw [payRead_badLength h]
  rfl

theorem exec_getPayBytes_badLength {s : State} {b : BufSel} (off len : Word) (h : brOf (s.buf b) < 20) :
    exec (.getPayBytes b off len) s = faultsWith 3 (brOf (s.buf b)) s := by
  show answerQuery s (bytesRead (payRead (s.cap b) (s.buf b) off.toNat len.toNat)) = _
  rw [payRead_badLength h]
  rfl

/-- With no immediate data in use the payload is selected, and its length is tested. -/
theorem autoRead_badLength {cap : Nat} {m : Memory} (himm : getField m fImmlen = 0) (h : brOf m < 20) :
    autoRead cap m = .error (.badLength (brOf m)) := by
  rw [autoRead, if_neg (by omega), if_pos (by simpa [minBr] using h)]

theorem exec_getAuto_badLength {s : State} {b : BufSel} (himm : getField (s.buf b) fImmlen = 0)
    (h : brOf (s.buf b) < 20) : exec (.getAuto b) s = faultsWith 3 (brOf (s.buf b)) s := by
  show answerQuery s (queryGetAuto b s) = _
  rw [queryGetAuto, autoRead_badLength himm h]
  rfl

theorem exec_getString_badLength {s : State} {b : BufSel} (minPrint : Byte)
    (himm : getField (s.buf b) fImmlen = 0) (h : brOf (s.buf b) < 20) :
    exec (.getString b minPrint) s = faultsWith 3 (brOf (s.buf b)) s := by
  show answerQuery s (queryGetString b minPrint s) = _
  rw [queryGetString, autoRead_badLength himm h]
  rfl

/-! ### The statements of 41_lifecycle.md -/

/-- Settles O18: the buffer is `initBuffer`'s whatever it held, and its window passes in every capacity. -/
theorem initLeavesFreshMessage : Obligations.InitLeavesFreshMessage := by
  intro s b
  obtain ⟨t, hexec, hdone, hframe, hbuf⟩ := commitBuffer_completes s b (initBuffer (s.buf b))
  have hbr : brOf (t.buf b) = 20 := by rw [hbuf, brOf_initBuffer]
  have hwindow : windowPasses t b := by
    rw [windowPasses, msgLen_eq, hbr]
    exact ⟨Nat.le_refl 20, (cap_bounds t b).1⟩
  refine ⟨t, hexec, hdone, hframe, fun a => ?_, ?_, ?_, ?_⟩
  · rw [byte_eq, hbuf, readByte_initBuffer]
  · rw [exec_cksumMatch hwindow, hbuf, if_pos (memRead_cksum_initBuffer _)]
  · rw [exec_checkFooter hwindow, hbuf, if_pos (footerOk_initBuffer _)]
  · rw [(msgSizeNeverWraps t b).1, hbr]

/-- Settles O19: bytes-remaining and the immediate length are 0, so every command that derives an offset stops
at the test of the length. -/
theorem clearLeavesZeros : Obligations.ClearLeavesZeros := by
  intro s b
  obtain ⟨t, hexec, hdone, hframe, hbuf⟩ := commitBuffer_completes s b (zeroed (s.buf b))
  have hbr : brOf (t.buf b) = 0 := by rw [hbuf, brOf_zeroed]
  have hshort : brOf (t.buf b) < 20 := by omega
  have himm : getField (t.buf b) fImmlen = 0 := by rw [hbuf, getField_zeroed]
  have hfault : faultsWith 3 0 t = faultsWith 3 (brOf (t.buf b)) t := by rw [hbr]
  obtain ⟨hcompute, hmatch, hget, -, hset, hgetFooter, hcheck, -⟩ := windowFaultsInOrder t b [] 0
  have hpay (off n : Nat) := answerQuery_scalarRead_badLength off n hshort
  refine ⟨t, hexec, hdone, hframe, ?_⟩
  rw [hfault]
  refine ⟨fun a => ?_, ?_, fun wbytes => ?_, fun minPrint => ?_, fun msgType => ?_,
    fun off => ?_, fun off len => ?_, ?_⟩
  · rw [byte_eq, hbuf, readByte_zeroed]
  · simp only [List.forall_mem_cons]
    exact ⟨hcompute.1 hshort, hmatch.1 hshort, hget.1 hshort, hset.1 hshort, hgetFooter.1 hshort,
      hcheck.1 hshort, exec_getAuto_badLength himm hshort, List.forall_mem_nil _⟩
  · obtain ⟨-, -, -, hsetCksum, -⟩ := windowFaultsInOrder t b wbytes 0
    exact hsetCksum.1 hshort
  · exact exec_getString_badLength minPrint himm hshort
  · obtain ⟨-, -, -, -, -, -, -, hfinalize⟩ := windowFaultsInOrder t b [] msgType
    exact hfinalize.1 hshort
  · simp only [List.forall_mem_cons]
    exact ⟨hpay _ 1, hpay _ 2, hpay _ 4, hpay _ 8, hpay _ 4, hpay _ 8, List.forall_mem_nil _⟩
  · exact exec_getPayBytes_badLength off len hshort
  · rw [(msgSizeNeverWraps t b).1, hbr]

end Sys2Proof.Machine

namespace Sys2Proof.Machine

/-! ### The common getter (R141) -/

theorem answerQuery_getFieldResult (s : State) (b : BufSel) (f : Field) :
    answerQuery s (getFieldResult f (s.buf b)) = answersWith (getField (s.buf b) f) [] 0 s := rfl

/-! ### The common setter (R142) -/

/-- A write of a span, committed with no results, ends as `writesOnly` says. -/
theorem writesOnly_memWrite (s : State) (b : BufSel) (a : Nat) (bytes : List Byte) :
    writesOnly b a bytes s (commitBuffer s b (.ok (memWrite (s.buf b) a bytes, {}))) := by
  obtain ⟨t, hexec, hdone, hframe, hbuf⟩ := commitBuffer_completes s b (memWrite (s.buf b) a bytes)
  refine ⟨t, hexec, hdone, hframe, fun i hi => ?_, fun x hx => ?_⟩
  · rw [byte_eq, hbuf, readByte_memWrite_in _ _ _ _ hi]
  · rw [byte_eq, hbuf, readByte_memWrite_out _ _ _ _ hx, byte_eq]

/-- The setter of field `f` writes the field's bytes, which are the low slices of its operand. -/
theorem writesOnly_setFieldResult {w : Nat} (s : State) (b : BufSel) (f : Field) (v : BitVec w) :
    writesOnly b f.offset (sliceBytes f.width v) s
      (commitBuffer s b (setFieldResult f v.toNat (s.buf b))) := by
  rw [sliceBytes_eq]
  exact writesOnly_memWrite s b f.offset (leBytes f.width v.toNat)

theorem sliceBytes_byte (v : Byte) : sliceBytes 1 v = [v] := by
  have hslice : v.extractLsb' 0 8 = v := BitVec.extractLsb'_eq_self
  simp [sliceBytes, hslice]

/-! ### The two setters that look at their operand (R168, R169) -/

theorem exec_setImmlen_of_le {v : Byte} (s : State) (b : BufSel) (h : v.toNat ≤ 16) :
    exec (.setImmlen b v) s = commitBuffer s b (setFieldResult fImmlen v.toNat (s.buf b)) := by
  show commitBuffer s b (if 16 < v.toNat then _ else _) = _
  rw [if_neg (by omega)]

theorem exec_setImmlen_of_gt {v : Byte} (s : State) (b : BufSel) (h : 16 < v.toNat) :
    exec (.setImmlen b v) s = faultsWith 4 v.toNat s := by
  show commitBuffer s b (if 16 < v.toNat then _ else _) = _
  rw [if_pos h]
  rfl

/-- The value `SET_BYTESREM` stores fits its four bytes. -/
theorem max_twenty_lt (v : Word) : max v.toNat 20 < 2 ^ 32 := Nat.max_lt.mpr ⟨v.isLt, by decide⟩

theorem exec_setBytesrem (s : State) (b : BufSel) (v : Word) :
    exec (.setBytesrem b v) s
      = commitBuffer s b (setFieldResult fBytesrem (BitVec.ofNat 32 (max v.toNat 20)).toNat (s.buf b)) := by
  rw [BitVec.toNat_ofNat, Nat.mod_eq_of_lt (max_twenty_lt v)]
  rfl

/-! ### A field set and got back (R143) -/

/-- No two fields of the header share a byte (R22). -/
theorem headerFields_disjoint : ∀ f ∈ headerFields, ∀ g ∈ headerFields, g ≠ f →
    g.offset + g.width ≤ f.offset ∨ f.offset + f.width ≤ g.offset := by
  decide

/-- The common setter and the common getter of a header field, for a value the field holds. -/
theorem headerRoundTrip_setFieldResult {f : Field} {v : Nat} (s : State) (b : BufSel)
    (hf : f ∈ headerFields) (hv : v < 256 ^ f.width) :
    headerRoundTrip b f v s (commitBuffer s b (setFieldResult f v (s.buf b)))
      (fun t => answerQuery t (getFieldResult f (t.buf b))) := by
  obtain ⟨t, hexec, -, -, hbuf⟩ := commitBuffer_completes s b (setField (s.buf b) f v)
  have hget : getField (t.buf b) f = v := by rw [hbuf, getField_setField_same, Nat.mod_eq_of_lt hv]
  refine ⟨t, hexec, ?_, fun g hg hne => ?_⟩
  · rw [← hget]
    exact answerQuery_getFieldResult t b f
  · rw [hbuf, getField_setField_other _ f g v (headerFields_disjoint f hf g hg hne)]

/-! ### The statements of 42_header_fields.md -/

/-- Settles O21: each of the eight commands is the common setter of its field. -/
theorem headerSettersWriteFieldOnly : Obligations.HeaderSettersWriteFieldOnly := fun s b =>
  ⟨writesOnly_setFieldResult s b fSync, writesOnly_setFieldResult s b fVer,
    writesOnly_setFieldResult s b fFlags, writesOnly_setFieldResult s b fErrno,
    writesOnly_setFieldResult s b fMsgtype, writesOnly_setFieldResult s b fRegarding,
    writesOnly_setFieldResult s b fRsvd, writesOnly_setFieldResult s b fCktype⟩

/-- Settles O22: up to 16 the command is the common setter of a field of one byte. -/
theorem setImmlenRefusesAboveSixteen : Obligations.SetImmlenRefusesAboveSixteen := by
  intro s b v
  refine ⟨fun hle => ?_, exec_setImmlen_of_gt s b⟩
  rw [exec_setImmlen_of_le s b hle, ← sliceBytes_byte v]
  exact writesOnly_setFieldResult s b fImmlen v

/-- Settles O23: the command is the common setter of the raised value. -/
theorem setBytesremRaisesToTwenty : Obligations.SetBytesremRaisesToTwenty := by
  intro s b v
  rw [exec_setBytesrem]
  exact writesOnly_setFieldResult s b fBytesrem _

/-- Settles O24: a setter's value fits its field, and the header's fields are disjoint. -/
theorem headerSetThenGet : Obligations.HeaderSetThenGet := by
  intro s b
  have trip {f : Field} (hf : f ∈ headerFields) {v : Nat} (hv : v < 256 ^ f.width) :=
    headerRoundTrip_setFieldResult s b hf hv
  refine ⟨fun v => trip (f := fSync) (by decide) v.isLt, fun v => trip (f := fVer) (by decide) v.isLt,
    fun v => trip (f := fFlags) (by decide) v.isLt, fun v => trip (f := fErrno) (by decide) v.isLt,
    fun v => trip (f := fMsgtype) (by decide) v.isLt, fun v => trip (f := fRegarding) (by decide) v.isLt,
    fun v => trip (f := fRsvd) (by decide) v.isLt, fun v => trip (f := fCktype) (by decide) v.isLt,
    fun v hle => ?_, fun v => trip (f := fBytesrem) (by decide) (max_twenty_lt v)⟩
  rw [exec_setImmlen_of_le s b hle]
  exact trip (f := fImmlen) (by decide) v.isLt

/-- Settles O20: each of the ten commands is the common getter of its field. -/
theorem headerGettersReturnField : Obligations.HeaderGettersReturnField := fun s b =>
  ⟨answerQuery_getFieldResult s b fSync, answerQuery_getFieldResult s b fVer,
    answerQuery_getFieldResult s b fFlags, answerQuery_getFieldResult s b fErrno,
    answerQuery_getFieldResult s b fMsgtype, answerQuery_getFieldResult s b fRegarding,
    answerQuery_getFieldResult s b fRsvd, answerQuery_getFieldResult s b fCktype,
    answerQuery_getFieldResult s b fImmlen, answerQuery_getFieldResult s b fBytesrem⟩

end Sys2Proof.Machine

namespace Sys2Proof.Machine

/-! ### The common immediate write (R181) -/

/-- The buffer `ImmWrite(B, off, bytes)` leaves: the bytes that fit the region, then the length. -/
def immWritten (m : Memory) (off : Nat) (bytes : List Byte) : Memory :=
  setField (memWrite m (24 + off) (bytes.take (16 - off))) fImmlen (off + min bytes.length (16 - off))

theorem immWrite_eq_immWritten (m : Memory) {off : Nat} (bytes : List Byte) (h : off ≤ 16) :
    immWrite m off bytes = .ok (immWritten m off bytes, min bytes.length (16 - off)) := by
  have htake : bytes.take (min bytes.length (16 - off)) = bytes.take (16 - off) := by
    rw [Nat.min_comm, ← List.take_eq_take_min]
  rw [immWrite_ok m bytes h, htake, immWritten]

/-- The bytes that fit start at 24, behind `IMMLEN`. -/
theorem readByte_immWritten_in (m : Memory) (off : Nat) {bytes : List Byte} {i : Nat}
    (h : i < bytes.length) (hfit : i < 16 - off) :
    readByte (immWritten m off bytes) (24 + off + i) = bytes[i] := by
  have hbehind : fImmlen.offset + fImmlen.width ≤ 24 + off + i := by simp only [fImmlen]; omega
  have htaken : i < (bytes.take (16 - off)).length := by rw [List.length_take]; omega
  rw [immWritten, readByte_setField_out _ _ _ _ (.inr hbehind), readByte_memWrite_in _ _ _ _ htaken,
    List.getElem_take]

theorem immlen_immWritten (m : Memory) {off : Nat} (bytes : List Byte) (h : off ≤ 16) :
    (readByte (immWritten m off bytes) 23).toNat = off + min bytes.length (16 - off) := by
  rw [← immlen_eq, immWritten, immlen_setField _ _ (by omega)]

theorem readByte_immWritten_out (m : Memory) (off : Nat) (bytes : List Byte) {x : Nat} (hlen : x ≠ 23)
    (h : x < 24 + off ∨ 24 + off + min bytes.length (16 - off) ≤ x) :
    readByte (immWritten m off bytes) x = readByte m x := by
  have hfield : x < fImmlen.offset ∨ fImmlen.offset + fImmlen.width ≤ x := by simp only [fImmlen]; omega
  have hspan : x < 24 + off ∨ 24 + off + (bytes.take (16 - off)).length ≤ x := by
    rw [List.length_take]; omega
  rw [immWritten, readByte_setField_out _ _ _ _ hfield, readByte_memWrite_out _ _ _ _ hspan]

/-- Bytes that all fit are read back. -/
theorem memRead_immWritten (m : Memory) {off : Nat} {bytes : List Byte} (h : off + bytes.length ≤ 16) :
    memRead (immWritten m off bytes) (24 + off) bytes.length = bytes := by
  refine List.ext_getElem (memRead_length _ _ _) fun i _ hi => ?_
  rw [memRead_getElem, readByte_immWritten_in m off hi (by omega)]

/-- An immediate setter at an offset up to 16 ends in the state that holds what it wrote. -/
theorem immSetter_completes (s : State) (b : BufSel) {off : Nat} (bytes : List Byte) (h : off ≤ 16) :
    ∃ t, commitBuffer s b (countResult (immWrite (s.buf b) off bytes)) = .next t ∧ sameOutside b s t
      ∧ completed 0 (min bytes.length (16 - off)) t ∧ t.buf b = immWritten (s.buf b) off bytes := by
  rw [immWrite_eq_immWritten _ bytes h]
  exact ⟨_, rfl, sameOutside_commit s b _ _, rfl, by rw [respond_buf, setBuf_buf_self]⟩

theorem immSetter_faults (s : State) (b : BufSel) {off : Nat} (bytes : List Byte) (h : 16 < off) :
    commitBuffer s b (countResult (immWrite (s.buf b) off bytes)) = faultsWith 2 off s := by
  rw [immWrite_error _ bytes h]
  rfl

theorem immSetSpec_immWrite (s : State) (b : BufSel) (off : Nat) (bytes : List Byte) :
    immSetSpec b off bytes s (commitBuffer s b (countResult (immWrite (s.buf b) off bytes))) := by
  refine ⟨fun hle => ?_, immSetter_faults s b bytes⟩
  obtain ⟨t, hexec, hframe, hdone, hbuf⟩ := immSetter_completes s b bytes hle
  refine ⟨t, hexec, hframe, hdone, fun i hi hfit => ?_, ?_, fun x hlen hx => ?_⟩
  · rw [byte_eq, hbuf, readByte_immWritten_in _ _ hi hfit]
  · rw [byte_eq, hbuf, immlen_immWritten _ bytes hle]
  · rw [byte_eq, hbuf, readByte_immWritten_out _ _ _ hlen hx, byte_eq]

/-- The setter of a scalar of `n` bytes, whose bytes are the low slices of its operand. -/
theorem immSetSpec_scalar {w : Nat} (s : State) (b : BufSel) (off n : Nat) (v : BitVec w) :
    immSetSpec b off (sliceBytes n v) s
      (commitBuffer s b (countResult (immWrite (s.buf b) off (leBytes n v.toNat)))) := by
  rw [sliceBytes_eq]
  exact immSetSpec_immWrite s b off (leBytes n v.toNat)

/-! ### The common immediate read (R182) -/

theorem immGetSpec_scalarRead (s : State) (b : BufSel) (off n : Nat) :
    immGetSpec b off n s (answerQuery s (scalarRead (immRead (s.buf b) off n))) := by
  refine ⟨fun hfit => ?_, fun hout => ?_⟩
  · rw [immRead_ok _ hfit]
    rfl
  · rw [immRead_error _ hout]
    rfl

theorem exec_getImmBytes_of_le (s : State) (b : BufSel) {off len : Word} (h : off.toNat + len.toNat ≤ 16) :
    exec (.getImmBytes b off len) s
      = answersWith 0 (memRead (s.buf b) (24 + off.toNat) len.toNat) len.toNat s := by
  show answerQuery s (bytesRead (immRead (s.buf b) off.toNat len.toNat)) = _
  rw [immRead_ok _ h, bytesRead, bytesResult, memRead_length]
  rfl

theorem exec_getImmBytes_of_gt (s : State) (b : BufSel) {off len : Word} (h : 16 < off.toNat + len.toNat) :
    exec (.getImmBytes b off len) s = faultsWith 2 (off.toNat + len.toNat) s := by
  show answerQuery s (bytesRead (immRead (s.buf b) off.toNat len.toNat)) = _
  rw [immRead_error _ h]
  rfl

/-! ### An immediate value set and got back (R184) -/

/-- The common setter of `n` bytes and any getter that answers `ans` where it reads those bytes back and faults
where its span leaves the region. -/
theorem immRoundTrip_immWrite (s : State) (b : BufSel) {off n : Nat} {bytes : List Byte}
    {get ans : State → StepOutcome} (hn : bytes.length = n)
    (hfits : ∀ t, off + n ≤ 16 → memRead (t.buf b) (24 + off) n = bytes → get t = ans t)
    (hleaves : ∀ t, 16 < off + n → get t = faultsWith 2 (off + n) t) :
    immRoundTrip off n (commitBuffer s b (countResult (immWrite (s.buf b) off bytes))) get ans := by
  subst hn
  refine ⟨fun hfit => ?_, fun hle hout => ?_⟩
  · obtain ⟨t, hexec, -, hdone, hbuf⟩ := immSetter_completes s b bytes (off := off) (by omega)
    have hcount : min bytes.length (16 - off) = bytes.length := Nat.min_eq_left (by omega)
    rw [hcount] at hdone
    exact ⟨t, hexec, hdone, hfits t hfit (by rw [hbuf, memRead_immWritten _ hfit])⟩
  · obtain ⟨t, hexec, -⟩ := immSetter_completes s b bytes hle
    exact ⟨t, hexec, hleaves t hout⟩

/-- The scalar setter and getter of `n` bytes, for a value those bytes hold. -/
theorem immRoundTrip_scalar (s : State) (b : BufSel) (off : Nat) {n v : Nat} (hv : v < 256 ^ n) :
    immRoundTrip off n (commitBuffer s b (countResult (immWrite (s.buf b) off (leBytes n v))))
      (fun t => answerQuery t (scalarRead (immRead (t.buf b) off n))) (answersWith v [] 0) := by
  refine immRoundTrip_immWrite s b (leBytes_length n v) (fun t hfit hread => ?_)
    fun t => (immGetSpec_scalarRead t b off n).2
  have hvalue : leValue (memRead (t.buf b) (24 + off) n) = v := by
    rw [hread, leValue_leBytes, Nat.mod_eq_of_lt hv]
  rw [(immGetSpec_scalarRead t b off n).1 hfit, hvalue]

/-! ### The statements of 43_immediate.md -/

/-- Settles O25: each of the seven commands is the common immediate write of its operand's bytes. -/
theorem immSettersTruncate : Obligations.ImmSettersTruncate := fun s b off =>
  ⟨immSetSpec_scalar s b off.toNat 1, immSetSpec_scalar s b off.toNat 2, immSetSpec_scalar s b off.toNat 4,
    immSetSpec_scalar s b off.toNat 8, immSetSpec_scalar s b off.toNat 4, immSetSpec_scalar s b off.toNat 8,
    fun _ wbytes _ => immSetSpec_immWrite s b off.toNat wbytes⟩

/-- Settles O27: a span inside the region is written whole and read back; the getter refuses any other. -/
theorem immSetThenGet : Obligations.ImmSetThenGet := by
  intro s b off
  have trip {n v : Nat} (hv : v < 256 ^ n) := immRoundTrip_scalar s b off.toNat hv
  refine ⟨fun v => trip (n := 1) v.isLt, fun v => trip (n := 2) v.isLt, fun v => trip (n := 4) v.isLt,
    fun v => trip (n := 8) v.isLt, fun v => trip (n := 4) v.isLt, fun v => trip (n := 8) v.isLt,
    fun len wbytes hlen => ?_⟩
  refine immRoundTrip_immWrite s b hlen (fun t hfit hread => ?_) fun t => exec_getImmBytes_of_gt t b
  rw [exec_getImmBytes_of_le t b hfit, hread]

/-- Settles O26: each of the seven commands is the common immediate read of its width. -/
theorem immGettersStayInRegion : Obligations.ImmGettersStayInRegion := fun s b off =>
  ⟨immGetSpec_scalarRead s b off.toNat 1, immGetSpec_scalarRead s b off.toNat 2,
    immGetSpec_scalarRead s b off.toNat 4, immGetSpec_scalarRead s b off.toNat 8,
    immGetSpec_scalarRead s b off.toNat 4, immGetSpec_scalarRead s b off.toNat 8,
    fun _ => ⟨exec_getImmBytes_of_le s b, exec_getImmBytes_of_gt s b⟩⟩

end Sys2Proof.Machine

namespace Sys2Proof.Machine

/-! ### The common payload write (R213) -/

/-- The buffer `PayWrite(B, off, bytes)` leaves: all the bytes, then the bytes-remaining that ends behind them. -/
def payWritten (m : Memory) (off : Nat) (bytes : List Byte) : Memory :=
  setField (memWrite m (44 + off) bytes) fBytesrem (off + bytes.length + 20)

theorem payWrite_eq_payWritten {cap : Nat} (m : Memory) {off : Nat} {bytes : List Byte}
    (h : 44 + off + bytes.length ≤ cap) :
    payWrite cap m off bytes = .ok (payWritten m off bytes, bytes.length) :=
  payWrite_ok m h

/-- The payload starts at 44, behind `BYTESREM`. -/
theorem readByte_payWritten_in (m : Memory) (off : Nat) {bytes : List Byte} {i : Nat} (h : i < bytes.length) :
    readByte (payWritten m off bytes) (44 + off + i) = bytes[i] := by
  have hbehind : fBytesrem.offset + fBytesrem.width ≤ 44 + off + i := by simp only [fBytesrem]; omega
  rw [payWritten, readByte_setField_out _ _ _ _ (.inr hbehind), readByte_memWrite_in _ _ _ _ h]

theorem readByte_payWritten_out (m : Memory) (off : Nat) (bytes : List Byte) {x : Nat}
    (hlen : x < 40 ∨ 44 ≤ x) (h : x < 44 + off ∨ 44 + off + bytes.length ≤ x) :
    readByte (payWritten m off bytes) x = readByte m x := by
  rw [payWritten, readByte_setField_out _ _ _ _ hlen, readByte_memWrite_out _ _ _ _ h]

/-- Bytes-remaining is stored whole: a span inside a capacity is far below `2^32`. -/
theorem brOf_payWritten (m : Memory) {off : Nat} {bytes : List Byte} (h : 44 + off + bytes.length < 2 ^ 31) :
    brOf (payWritten m off bytes) = off + bytes.length + 20 :=
  brOf_setField_bytesrem _ _ (by omega)

theorem memRead_payWritten (m : Memory) (off : Nat) (bytes : List Byte) :
    memRead (payWritten m off bytes) (44 + off) bytes.length = bytes := by
  refine List.ext_getElem (memRead_length _ _ _) fun i _ hi => ?_
  rw [memRead_getElem, readByte_payWritten_in m off hi]

theorem cap_eq_of_sameOutside {b : BufSel} {s t : State} (h : sameOutside b s t) (c : BufSel) :
    t.cap c = s.cap c := by
  cases c <;> simp only [cap_req, cap_rsp, h.1]

/-- A payload setter whose span fits the buffer ends in the state that holds what it wrote. -/
theorem paySetter_completes (s : State) (b : BufSel) {off : Nat} {bytes : List Byte}
    (h : 44 + off + bytes.length ≤ s.cap b) :
    ∃ t, commitBuffer s b (countResult (payWrite (s.cap b) (s.buf b) off bytes)) = .next t
      ∧ sameOutside b s t ∧ completed 0 bytes.length t ∧ t.buf b = payWritten (s.buf b) off bytes
      ∧ brOf (t.buf b) = off + bytes.length + 20 := by
  have hbuf (r : Response) : ((s.setBuf b (payWritten (s.buf b) off bytes)).respond r).buf b
      = payWritten (s.buf b) off bytes := by rw [respond_buf, setBuf_buf_self]
  have hsmall : 44 + off + bytes.length < 2 ^ 31 := Nat.lt_of_le_of_lt h (cap_bounds s b).2
  rw [payWrite_eq_payWritten _ h]
  exact ⟨_, rfl, sameOutside_commit s b _ _, rfl, hbuf _, by rw [hbuf, brOf_payWritten _ hsmall]⟩

theorem paySetter_faults (s : State) (b : BufSel) {off : Nat} {bytes : List Byte}
    (h : s.cap b < 44 + off + bytes.length) :
    commitBuffer s b (countResult (payWrite (s.cap b) (s.buf b) off bytes))
      = faultsWith 1 (44 + off + bytes.length) s := by
  rw [payWrite_error _ h]
  rfl

theorem paySetSpec_payWrite (s : State) (b : BufSel) (off : Nat) (bytes : List Byte) :
    paySetSpec b off bytes s (commitBuffer s b (countResult (payWrite (s.cap b) (s.buf b) off bytes))) := by
  refine ⟨fun hfit => ?_, paySetter_faults s b⟩
  obtain ⟨t, hexec, hframe, hdone, hbuf, hbr⟩ := paySetter_completes s b hfit
  refine ⟨t, hexec, hframe, hdone, fun i hi => ?_, hbr, fun x hlen hx => ?_⟩
  · rw [byte_eq, hbuf, readByte_payWritten_in _ _ hi]
  · rw [byte_eq, hbuf, readByte_payWritten_out _ _ _ hlen hx, byte_eq]

/-- The setter of a scalar of `n` bytes, whose bytes are the low slices of its operand. -/
theorem paySetSpec_scalar {w : Nat} (s : State) (b : BufSel) (off n : Nat) (v : BitVec w) :
    paySetSpec b off (sliceBytes n v) s
      (commitBuffer s b (countResult (payWrite (s.cap b) (s.buf b) off (leBytes n v.toNat)))) := by
  rw [sliceBytes_eq]
  exact paySetSpec_payWrite s b off (leBytes n v.toNat)

/-! ### The common payload read (R214) -/

/-- A query that hands on the faults of `PayRead` makes its three tests; past them it makes its results, by
`finish`, of the bytes of the span. -/
theorem payGetSpec_payRead {finish : Except CmdFault (List Byte) → Except CmdFault Results}
    (hfault : ∀ f, finish (.error f) = .error f) (s : State) (b : BufSel) (off n : Nat) :
    payGetSpec b off n s (answerQuery s (finish (.ok (memRead (s.buf b) (44 + off) n))))
      (answerQuery s (finish (payRead (s.cap b) (s.buf b) off n))) := by
  refine ⟨fun hshort => ?_, fun hbr hrange => ?_, fun hbr hin hsmall => ?_, fun hbr hin hfit => ?_⟩
  · rw [payRead_badLength hshort, hfault]
    rfl
  · rw [payRead_range hbr hrange, hfault]
    rfl
  · rw [payRead_tooSmall hbr hin hsmall, hfault]
    rfl
  · rw [payRead_ok hbr hin hfit]

theorem payGetSpec_scalarRead (s : State) (b : BufSel) (off n : Nat) :
    payGetSpec b off n s (answersWith (leValue (memRead (s.buf b) (44 + off) n)) [] 0 s)
      (answerQuery s (scalarRead (payRead (s.cap b) (s.buf b) off n))) :=
  payGetSpec_payRead (finish := scalarRead) (fun _ => rfl) s b off n

/-- The count returned is the length of the bytes returned. -/
theorem answerQuery_bytesRead_ok (s : State) (bytes : List Byte) :
    answerQuery s (bytesRead (.ok bytes)) = answersWith 0 bytes bytes.length s := rfl

theorem payGetSpec_bytesRead (s : State) (b : BufSel) (off n : Nat) :
    payGetSpec b off n s (answersWith 0 (memRead (s.buf b) (44 + off) n) n s)
      (answerQuery s (bytesRead (payRead (s.cap b) (s.buf b) off n))) := by
  have hget := payGetSpec_payRead (finish := bytesRead) (fun _ => rfl) s b off n
  rwa [answerQuery_bytesRead_ok, memRead_length] at hget

/-! ### A payload value set and got back (R236) -/

/-- The common setter of `n` bytes that fit the buffer makes a payload that ends with them, so the tests of the
getter pass and it reads them back. -/
theorem payRoundTrip_payWrite (s : State) (b : BufSel) (off : Nat) {n : Nat} {bytes : List Byte}
    {get ans : State → StepOutcome} (hn : bytes.length = n)
    (hget : ∀ t, memRead (t.buf b) (44 + off) n = bytes → payGetSpec b off n t (ans t) (get t)) :
    payRoundTrip b off n s (commitBuffer s b (countResult (payWrite (s.cap b) (s.buf b) off bytes))) get ans := by
  subst hn
  intro hfit
  obtain ⟨t, hexec, hframe, hdone, hbuf, hbr⟩ := paySetter_completes s b hfit
  have hread : memRead (t.buf b) (44 + off) bytes.length = bytes := by rw [hbuf, memRead_payWritten]
  have hcap : 44 + off + bytes.length ≤ t.cap b := by rwa [cap_eq_of_sameOutside hframe]
  obtain ⟨-, -, -, hpasses⟩ := hget t hread
  exact ⟨t, hexec, hdone, hpasses (by omega) (by omega) hcap⟩

/-- The scalar setter and getter of `n` bytes, for a value those bytes hold. -/
theorem payRoundTrip_scalar (s : State) (b : BufSel) (off : Nat) {n v : Nat} (hv : v < 256 ^ n) :
    payRoundTrip b off n s (commitBuffer s b (countResult (payWrite (s.cap b) (s.buf b) off (leBytes n v))))
      (fun t => answerQuery t (scalarRead (payRead (t.cap b) (t.buf b) off n))) (answersWith v [] 0) := by
  refine payRoundTrip_payWrite s b off (leBytes_length n v) fun t hread => ?_
  have hvalue : leValue (memRead (t.buf b) (44 + off) n) = v := by
    rw [hread, leValue_leBytes, Nat.mod_eq_of_lt hv]
  rw [← hvalue]
  exact payGetSpec_scalarRead t b off n

/-- The setter of a byte sequence and the getter of as many bytes. -/
theorem payRoundTrip_bytes (s : State) (b : BufSel) (off : Nat) {n : Nat} {bytes : List Byte}
    (hn : bytes.length = n) :
    payRoundTrip b off n s (commitBuffer s b (countResult (payWrite (s.cap b) (s.buf b) off bytes)))
      (fun t => answerQuery t (bytesRead (payRead (t.cap b) (t.buf b) off n))) (answersWith 0 bytes n) := by
  refine payRoundTrip_payWrite s b off hn fun t hread => ?_
  rw [← hread]
  exact payGetSpec_bytesRead t b off n

/-! ### The statements of 44_payload.md -/

/-- Settles O28: each of the seven commands is the common payload write of its operand's bytes. -/
theorem paySettersNeverTruncate : Obligations.PaySettersNeverTruncate := fun s b off =>
  ⟨paySetSpec_scalar s b off.toNat 1, paySetSpec_scalar s b off.toNat 2, paySetSpec_scalar s b off.toNat 4,
    paySetSpec_scalar s b off.toNat 8, paySetSpec_scalar s b off.toNat 4, paySetSpec_scalar s b off.toNat 8,
    fun _ wbytes _ => paySetSpec_payWrite s b off.toNat wbytes⟩

/-- Settles O30: the payload a setter leaves ends with the bytes it wrote, and they are read back. -/
theorem paySetThenGet : Obligations.PaySetThenGet := by
  intro s b off
  have trip {n v : Nat} (hv : v < 256 ^ n) := payRoundTrip_scalar s b off.toNat hv
  exact ⟨fun v => trip (n := 1) v.isLt, fun v => trip (n := 2) v.isLt, fun v => trip (n := 4) v.isLt,
    fun v => trip (n := 8) v.isLt, fun v => trip (n := 4) v.isLt, fun v => trip (n := 8) v.isLt,
    fun _ _ hlen => payRoundTrip_bytes s b off.toNat hlen⟩

/-- Settles O29: each of the seven commands is the common payload read of its width. -/
theorem payGettersTestInOrder : Obligations.PayGettersTestInOrder := fun s b off =>
  ⟨payGetSpec_scalarRead s b off.toNat 1, payGetSpec_scalarRead s b off.toNat 2,
    payGetSpec_scalarRead s b off.toNat 4, payGetSpec_scalarRead s b off.toNat 8,
    payGetSpec_scalarRead s b off.toNat 4, payGetSpec_scalarRead s b off.toNat 8,
    fun len => payGetSpec_bytesRead s b off.toNat len.toNat⟩

end Sys2Proof.Machine

namespace Sys2Proof.Machine

/-! ### The checksum and footer regions (R62, R63, R250) -/

/-- The statements' reading of `Expected(B)` is the model's: the checksum type is the byte at 22 (R22). -/
theorem expectedOf_eq (m : Memory) : expectedOf m = expectedChecksum m := by
  have htype : readByte m 22 = 1 ↔ getField m fCktype = 1 := by
    rw [cktype_eq]
    exact BitVec.toNat_inj.symm
  rw [expectedOf, if_congr htype rfl rfl]
  rfl

/-- With a legal bytes-remaining the footer is the last four bytes of the message. -/
theorem ftOff_of_legal {m : Memory} (h : 20 ≤ brOf m) : ftOff m = 44 + (brOf m - 4) := by
  rw [ftOff_eq]
  omega

theorem memRead_writeFooter (m : Memory) : memRead (writeFooter m) (ftOff m) ftLen = footerBytes :=
  memRead_memWrite_same m (ftOff m) footerBytes

theorem memRead_four (m : Memory) (a : Nat) :
    memRead m a 4 = [readByte m a, readByte m (a + 1), readByte m (a + 2), readByte m (a + 3)] := rfl

theorem footerOk_iff (m : Memory) :
    footerOk m = true ↔ readByte m (ftOff m) = 0xC5 ∧ readByte m (ftOff m + 1) = 0xC4
      ∧ readByte m (ftOff m + 2) = 0xC3 ∧ readByte m (ftOff m + 3) = 0xC2 := by
  simp [footerOk, ftLen, memRead_four, footerBytes]

/-! ### Queries and writes behind a window that passes -/

/-- `GET_CKSUM` behind a window that passes (R257). -/
theorem exec_getCksum {s : State} {b : BufSel} (h : windowPasses s b) :
    exec (.getCksum b) s = answersWith 0 (memRead (s.buf b) (ckOff (s.buf b)) 16) 16 s := by
  show answerQuery s (withWindow (s.cap b) (s.buf b) _) = _
  rw [withWindow_ok h.1 h.2, bytesResult, memRead_length]
  rfl

/-- `GET_FOOTER` behind a window that passes (R262). -/
theorem exec_getFooter {s : State} {b : BufSel} (h : windowPasses s b) :
    exec (.getFooter b) s = answersWith (leValue (memRead (s.buf b) (ftOff (s.buf b)) ftLen)) [] 0 s := by
  show answerQuery s (withWindow (s.cap b) (s.buf b) _) = _
  rw [withWindow_ok h.1 h.2]
  rfl

/-- A write of a span behind a window that passes ends as `writesOnly` says. -/
theorem writesOnly_withWindow {s : State} {b : BufSel} (h : windowPasses s b) (a : Nat) (bytes : List Byte) :
    writesOnly b a bytes s
      (commitBuffer s b (withWindow (s.cap b) (s.buf b) (.ok (memWrite (s.buf b) a bytes, {})))) := by
  rw [withWindow_ok h.1 h.2]
  exact writesOnly_memWrite s b a bytes

/-! ### The length test of `SET_CKSUM` (R258) -/

theorem exec_setCksum_of_ne {len : Word} (s : State) (b : BufSel) (wbytes : List Byte) (h : len.toNat ≠ 16) :
    exec (.setCksum b len wbytes) s = faultsWith 4 len.toNat s := by
  show commitBuffer s b (if len.toNat ≠ 16 then _ else _) = _
  rw [if_pos h]
  rfl

theorem exec_setCksum_of_eq {len : Word} (s : State) (b : BufSel) (wbytes : List Byte) (h : len.toNat = 16) :
    exec (.setCksum b len wbytes) s
      = commitBuffer s b
          (withWindow (s.cap b) (s.buf b) (.ok (memWrite (s.buf b) (ckOff (s.buf b)) wbytes, {}))) := by
  show commitBuffer s b (if len.toNat ≠ 16 then _ else _) = _
  rw [if_neg (by omega)]

/-! ### The padding of MD5 (R242) -/

theorem md5ZeroCount_lt (len : Nat) : md5ZeroCount len < 64 := Nat.mod_lt _ (by decide)

/-- The zero bytes fill the last block but for the eight bytes of the bit length. -/
theorem md5ZeroCount_fills (len : Nat) : (len + 1 + md5ZeroCount len) % 64 = 56 := by
  rw [md5ZeroCount]
  omega

/-- `bytes_n` sees its operand modulo `256^n` (R8). -/
theorem leBytes_mod (n v : Nat) : leBytes n (v % 256 ^ n) = leBytes n v := by
  have hpack := leBytes_leValue (leBytes n v)
  rwa [leBytes_length, leValue_leBytes] at hpack

/-- The eight bytes of the bit length hold it modulo `2^64`. -/
theorem leBytes_bitLength (len : Nat) : leBytes 8 (8 * len) = sliceBytes 8 (BitVec.ofNat 64 (8 * len)) := by
  rw [sliceBytes_eq, BitVec.toNat_ofNat]
  exact (leBytes_mod 8 (8 * len)).symm

theorem md5Pad_length (m : List Byte) :
    (md5Pad m).length = m.length + 1 + md5ZeroCount m.length + 8 := by
  simp only [md5Pad, List.length_append, List.length_singleton, List.length_replicate, leBytes_length]

/-! ### The statements of 45_checksum_footer.md -/

/-- Settles O32: the command is the write of the expected checksum behind the window check. -/
theorem cksumComputeWritesExpected : Obligations.CksumComputeWritesExpected := by
  intro s b
  rw [expectedOf_eq]
  exact ⟨windowFaultSpec_commitBuffer s b _,
    fun h => ⟨expectedChecksum_length _, writesOnly_withWindow h (ckOff (s.buf b)) _⟩⟩

/-- Settles O34: neither write moves bytes-remaining, so the query after it passes the same window and reads
the same region; the expected checksum does not depend on the region that stores it. -/
theorem computedChecksumAndFooterVerify : Obligations.ComputedChecksumAndFooterVerify := by
  intro s b h
  refine ⟨⟨_, exec_cksumCompute h, ?_⟩, ⟨_, exec_setFooter h, ?_⟩⟩
  · have hwindow := windowPasses_commit (okResponse {}) (brOf_writeChecksum (s.buf b)) h
    rw [exec_cksumMatch hwindow, respond_buf, setBuf_buf_self, ckOff_writeChecksum,
      expectedChecksum_writeChecksum]
    exact congrArg (answersWith · [] 0 _) (if_pos (memRead_writeChecksum (s.buf b)))
  · have hwindow := windowPasses_commit (okResponse {}) (brOf_writeFooter (s.buf b)) h
    have hread := memRead_writeFooter (s.buf b)
    rw [exec_checkFooter hwindow, exec_getFooter hwindow, respond_buf, setBuf_buf_self, footerOk,
      ftOff_writeFooter, hread]
    exact ⟨rfl, rfl⟩

/-- Settles O36: the length is tested first, and sixteen bytes are written behind the window check. -/
theorem setCksumWritesBytes : Obligations.SetCksumWritesBytes := by
  intro s b len wbytes _
  refine ⟨exec_setCksum_of_ne s b wbytes, fun hlen => ?_⟩
  rw [exec_setCksum_of_eq s b wbytes hlen]
  exact ⟨windowFaultSpec_commitBuffer s b _, fun h => writesOnly_withWindow h (ckOff (s.buf b)) wbytes⟩

/-- Settles O37: the command is the write of the pattern behind the window check. -/
theorem setFooterWritesPattern : Obligations.SetFooterWritesPattern := by
  intro s b
  refine ⟨windowFaultSpec_commitBuffer s b _, fun h => ?_⟩
  rw [← ftOff_of_legal h.1]
  exact writesOnly_withWindow h (ftOff (s.buf b)) footerBytes

/-- Settles O40: the padding ends a block with the eight bytes of the bit length. -/
theorem md5PaddingAndLength : Obligations.Md5PaddingAndLength := by
  intro m
  have hfills := md5ZeroCount_fills m.length
  refine ⟨⟨md5ZeroCount m.length, md5ZeroCount_lt _, hfills, ?_⟩, ?_, md5_length m⟩
  · rw [md5Pad, leBytes_bitLength]
  · rw [md5Pad_length]
    omega

/-- Settles O33: the command is a query behind the window check. -/
theorem cksumMatchCompares : Obligations.CksumMatchCompares := by
  intro s b
  rw [expectedOf_eq]
  exact ⟨windowFaultSpec_answerQuery s b _, exec_cksumMatch⟩

/-- Settles O35: each of the three commands is a query behind the window check. -/
theorem checksumAndFooterReads : Obligations.ChecksumAndFooterReads := by
  intro s b ck ft
  have query := windowFaultSpec_answerQuery s b
  refine ⟨query _, query _, query _, fun h => ?_⟩
  have hft : ftOff (s.buf b) = ft := ftOff_of_legal h.1
  refine ⟨exec_getCksum h, ?_, ?_⟩
  · rw [exec_getFooter h, hft]
    rfl
  · rw [exec_checkFooter h, if_congr (footerOk_iff _) rfl rfl, hft]
    rfl

/-- Settles O39, by evaluation of the four digests. -/
theorem md5CheckValues : Obligations.Md5CheckValues :=
  ⟨by decide +kernel, by decide +kernel, by decide +kernel, by decide +kernel⟩

end Sys2Proof.Machine

namespace Sys2Proof.Machine

/-! ### The two paths of `PUT_AUTO` (R285) -/

section putAuto
variable {T : Byte} {wbytes : List Byte} (s : State) (b : BufSel) (len : Word)

theorem exec_putAuto_badThreshold (wbytes : List Byte) (hT : 16 < T.toNat) :
    exec (.putAuto b len wbytes T) s = faultsWith 4 T.toNat s := by
  show commitBuffer s b (if 16 < T.toNat then _ else _) = _
  rw [if_pos hT]
  rfl

/-- The immediate path is the common immediate write at offset 0: its `rdata` is 0, as for `SET_IMM_*`. -/
theorem exec_putAuto_immediate (hT : T.toNat ≤ 16) (hfew : wbytes.length ≤ T.toNat) :
    exec (.putAuto b len wbytes T) s = commitBuffer s b (countResult (immWrite (s.buf b) 0 wbytes)) := by
  show commitBuffer s b (if 16 < T.toNat then _ else if wbytes.length ≤ T.toNat then _ else _) = _
  rw [if_neg (by omega), if_pos hfew, immWrite_ok _ _ (Nat.zero_le 16)]
  rfl

theorem exec_putAuto_payload (hT : T.toNat ≤ 16) (hmany : T.toNat < wbytes.length) :
    exec (.putAuto b len wbytes T) s
      = commitBuffer s b (pathResult 1 (payWrite (s.cap b) (s.buf b) 0 wbytes)) := by
  show commitBuffer s b (if 16 < T.toNat then _ else if wbytes.length ≤ T.toNat then _ else _) = _
  rw [if_neg (by omega), if_neg (by omega)]

theorem putAuto_payload_completes (hT : T.toNat ≤ 16) (hmany : T.toNat < wbytes.length)
    (hroom : 44 + wbytes.length ≤ s.cap b) :
    ∃ t, exec (.putAuto b len wbytes T) s = .next t ∧ sameOutside b s t ∧ completed 1 wbytes.length t
      ∧ t.buf b = payWritten (s.buf b) 0 wbytes := by
  rw [exec_putAuto_payload s b len hT hmany, payWrite_eq_payWritten _ hroom]
  exact ⟨_, rfl, sameOutside_commit s b _ _, rfl, by rw [respond_buf, setBuf_buf_self]⟩

theorem exec_putAuto_tooSmall (hT : T.toNat ≤ 16) (hmany : T.toNat < wbytes.length)
    (hroom : s.cap b < 44 + wbytes.length) :
    exec (.putAuto b len wbytes T) s = faultsWith 1 (44 + wbytes.length) s := by
  rw [exec_putAuto_payload s b len hT hmany, payWrite_error _ hroom]
  rfl

end putAuto

/-- An immediate write at offset 0 of at most sixteen bytes writes them all. -/
theorem immlen_immWritten_zero (m : Memory) {bytes : List Byte} (h : bytes.length ≤ 16) :
    (readByte (immWritten m 0 bytes) 23).toNat = bytes.length := by
  rw [immlen_immWritten m bytes (Nat.zero_le 16)]
  omega

/-- The immediate data lie before `BYTESREM`. -/
theorem brOf_immWritten (m : Memory) {off : Nat} (bytes : List Byte) (h : off ≤ 16) :
    brOf (immWritten m off bytes) = brOf m :=
  brOf_congr fun _ hx _ => readByte_immWritten_out m off bytes (by omega) (.inr (by omega))

/-- A payload written at offset 0 ends behind its bytes. -/
theorem brOf_payWritten_zero (m : Memory) {cap : Nat} {bytes : List Byte} (hcap : cap < 2 ^ 31)
    (h : 44 + bytes.length ≤ cap) : brOf (payWritten m 0 bytes) = bytes.length + 20 := by
  rw [brOf_payWritten m (by omega), Nat.zero_add]

/-! ### The selection of `GET_AUTO` and `GET_STRING` (R288) -/

theorem autoRead_badValue {cap : Nat} {m : Memory} (h : 16 < getField m fImmlen) :
    autoRead cap m = .error (.badValue (getField m fImmlen)) := by
  rw [autoRead, if_pos (by omega), if_pos (by simpa [immCap] using h)]

theorem autoRead_immediate {cap : Nat} {m : Memory} (hpos : 0 < getField m fImmlen)
    (hle : getField m fImmlen ≤ 16) :
    autoRead cap m = .ok (memRead m 24 (getField m fImmlen), 0) := by
  rw [autoRead, if_pos hpos, if_neg (by simpa [immCap] using hle)]
  rfl

/-- With no immediate data in use and a legal length, the selection is the read of the whole payload, which
stays inside the payload; what is left is its capacity test. -/
theorem autoRead_tooSmall {cap : Nat} {m : Memory} (himm : getField m fImmlen = 0) (hbr : 20 ≤ brOf m)
    (hroom : cap < 44 + (brOf m - 20)) :
    autoRead cap m = .error (.bufferTooSmall (44 + (brOf m - 20))) := by
  have hread := payRead_tooSmall (off := 0) (n := brOf m - minBr) hbr (by simp [minBr]) hroom
  rw [autoRead, if_neg (by omega), if_neg (by simpa [minBr] using hbr), hread]
  rfl

theorem autoRead_payload {cap : Nat} {m : Memory} (himm : getField m fImmlen = 0) (hbr : 20 ≤ brOf m)
    (hroom : 44 + (brOf m - 20) ≤ cap) :
    autoRead cap m = .ok (memRead m 44 (brOf m - 20), 1) := by
  have hread := payRead_ok (off := 0) (n := brOf m - minBr) hbr (by simp [minBr]) hroom
  rw [autoRead, if_neg (by omega), if_neg (by simpa [minBr] using hbr), hread]
  rfl

/-- The statements' selection is the model's. -/
theorem autoRead_of_autoSelected {b : BufSel} {s : State} {path : Nat} {bytes : List Byte}
    (h : autoSelected b s path bytes) : autoRead (s.cap b) (s.buf b) = .ok (bytes, path) := by
  simp only [autoSelected, byte_eq, ← immlen_eq] at h
  obtain ⟨hpos, hle, rfl, rfl⟩ | ⟨himm, hbr, hroom, rfl, rfl⟩ := h
  · exact autoRead_immediate hpos hle
  · exact autoRead_payload himm hbr hroom

/-- A command that hands on the faults of the selection has the faults R288 gives. -/
theorem autoFaultSpec_of_autoRead {b : BufSel} {s : State} {o : StepOutcome}
    (h : ∀ f, autoRead (s.cap b) (s.buf b) = .error f → o = takeFault f s) : autoFaultSpec b s o := by
  simp only [autoFaultSpec, byte_eq, ← immlen_eq]
  exact ⟨fun hover => h _ (autoRead_badValue hover), fun himm hshort => h _ (autoRead_badLength himm hshort),
    fun himm hbr hroom => h _ (autoRead_tooSmall himm hbr hroom)⟩

section selected
variable {s : State} {b : BufSel} {path : Nat} {bytes : List Byte} {f : CmdFault}

theorem exec_getAuto_of_ok (h : autoRead (s.cap b) (s.buf b) = .ok (bytes, path)) :
    exec (.getAuto b) s = answersWith path bytes bytes.length s := by
  show answerQuery s (queryGetAuto b s) = _
  rw [queryGetAuto, h]
  rfl

theorem exec_getAuto_of_error (h : autoRead (s.cap b) (s.buf b) = .error f) :
    exec (.getAuto b) s = takeFault f s := by
  show answerQuery s (queryGetAuto b s) = _
  rw [queryGetAuto, h]
  rfl

theorem exec_getString_of_ok (minPrint : Byte) (h : autoRead (s.cap b) (s.buf b) = .ok (bytes, path)) :
    exec (.getString b minPrint) s
      = answersWith path (trimString minPrint bytes) (trimString minPrint bytes).length s := by
  show answerQuery s (queryGetString b minPrint s) = _
  rw [queryGetString, h]
  rfl

theorem exec_getString_of_error (minPrint : Byte) (h : autoRead (s.cap b) (s.buf b) = .error f) :
    exec (.getString b minPrint) s = takeFault f s := by
  show answerQuery s (queryGetString b minPrint s) = _
  rw [queryGetString, h]
  rfl

end selected

/-! ### The scan of `GET_STRING` (R290) -/

/-- The index of the first byte below the threshold, or the length if there is none. -/
def firstLow (minPrint : Byte) (bytes : List Byte) : Nat :=
  bytes.findIdx (fun v => !decide (minPrint.toNat ≤ v.toNat))

theorem trimString_eq_take (minPrint : Byte) (bytes : List Byte) :
    trimString minPrint bytes = bytes.take (firstLow minPrint bytes) :=
  List.takeWhile_eq_take_findIdx_not

theorem firstLow_le_length (minPrint : Byte) (bytes : List Byte) : firstLow minPrint bytes ≤ bytes.length :=
  List.findIdx_le_length

theorem trimString_length (minPrint : Byte) (bytes : List Byte) :
    (trimString minPrint bytes).length = firstLow minPrint bytes := by
  rw [trimString_eq_take, List.length_take_of_le (firstLow_le_length minPrint bytes)]

theorem le_getElem_of_lt_firstLow {minPrint : Byte} {bytes : List Byte} {i : Nat} (h : i < bytes.length)
    (hi : i < firstLow minPrint bytes) : minPrint.toNat ≤ bytes[i].toNat := by
  simpa using List.not_of_lt_findIdx hi

theorem getElem_firstLow_lt {minPrint : Byte} {bytes : List Byte}
    (h : firstLow minPrint bytes < bytes.length) :
    bytes[firstLow minPrint bytes].toNat < minPrint.toNat := by
  have hlow : (!decide (minPrint.toNat ≤ bytes[firstLow minPrint bytes].toNat)) = true :=
    List.findIdx_getElem (w := h)
  rw [Bool.not_eq_true', decide_eq_false_iff_not] at hlow
  exact Nat.lt_of_not_le hlow

/-! ### `GET_AUTO` selects what `PUT_AUTO` stored (R299) -/

theorem autoSelected_of_immWritten {b : BufSel} {v : State} {m : Memory} {bytes : List Byte}
    (hbuf : v.buf b = immWritten m 0 bytes) (hpos : 1 ≤ bytes.length) (hle : bytes.length ≤ 16) :
    autoSelected b v 0 bytes := by
  have hused : (v.byte b 23).toNat = bytes.length := by rw [byte_eq, hbuf, immlen_immWritten_zero m hle]
  refine .inl ⟨by omega, by omega, rfl, ?_⟩
  rw [hused, hbuf]
  exact (memRead_immWritten m (by omega)).symm

theorem byte_immlen_of_payWritten {b : BufSel} {v : State} {m : Memory} {bytes : List Byte}
    (hbuf : v.buf b = payWritten m 0 bytes) : v.byte b 23 = readByte m 23 := by
  rw [byte_eq, hbuf, readByte_payWritten_out m 0 bytes (by omega) (by omega)]

/-- A payload is selected only where no immediate data was in use before it was written. -/
theorem autoSelected_of_payWritten {b : BufSel} {v : State} {m : Memory} {bytes : List Byte}
    (hbuf : v.buf b = payWritten m 0 bytes) (hunused : readByte m 23 = 0)
    (hroom : 44 + bytes.length ≤ v.cap b) : autoSelected b v 1 bytes := by
  have hbr : brOf (v.buf b) = bytes.length + 20 := by
    rw [hbuf, brOf_payWritten_zero m (cap_bounds v b).2 hroom]
  refine .inr ⟨?_, by omega, by omega, rfl, ?_⟩
  · rw [byte_immlen_of_payWritten hbuf, hunused]
    rfl
  · rw [hbr, Nat.add_sub_cancel, hbuf]
    exact (memRead_payWritten m 0 bytes).symm

/-! ### The statements of 46_marshalling.md -/

/-- Settles O41: the immediate path is an immediate write at offset 0 that truncates nothing, the payload path
a payload write at offset 0. -/
theorem putAutoChoosesPath : Obligations.PutAutoChoosesPath := by
  intro s b len wbytes T hlen
  rw [← hlen]
  refine ⟨exec_putAuto_badThreshold s b len wbytes, fun hT hfew => ?_, fun hT hmany hroom => ?_,
    exec_putAuto_tooSmall s b len⟩
  · have hcount : min wbytes.length (16 - 0) = wbytes.length := by omega
    have himm := (immSetSpec_immWrite s b 0 wbytes).1 (Nat.zero_le 16)
    rw [← exec_putAuto_immediate s b len hT hfew, hcount, Nat.zero_add, Nat.add_zero] at himm
    obtain ⟨t, hexec, hframe, hdone, hbytes, hused, hrest⟩ := himm
    exact ⟨t, hexec, hframe, hdone, fun i hi => hbytes i hi (by omega), hused, hrest⟩
  · obtain ⟨t, hexec, hframe, hdone, hbuf⟩ := putAuto_payload_completes s b len hT hmany hroom
    refine ⟨t, hexec, hframe, hdone, fun i hi => ?_, ?_, fun x hx => ?_⟩
    · rw [byte_eq, hbuf, ← readByte_payWritten_in (s.buf b) 0 hi]
    · rw [hbuf, brOf_payWritten_zero _ (cap_bounds s b).2 hroom]
    · rw [byte_eq, hbuf, readByte_payWritten_out _ 0 _ (by omega) (by omega), byte_eq]

/-- Settles O43: the command answers the bytes of the selection before its first low one. -/
theorem getStringStopsAtLowByte : Obligations.GetStringStopsAtLowByte := by
  intro s b minPrint
  refine ⟨autoFaultSpec_of_autoRead fun _ => exec_getString_of_error minPrint, fun path bytes hsel => ?_⟩
  refine ⟨firstLow minPrint bytes, firstLow_le_length minPrint bytes, ?_,
    fun _ => le_getElem_of_lt_firstLow, getElem_firstLow_lt⟩
  rw [exec_getString_of_ok minPrint (autoRead_of_autoSelected hsel), trimString_length, trimString_eq_take]

/-- Settles O42: the command answers the selection, or its fault. -/
theorem getAutoPrefersImmediate : Obligations.GetAutoPrefersImmediate := fun _ _ =>
  ⟨autoFaultSpec_of_autoRead fun _ => exec_getAuto_of_error,
    fun _ _ hsel => exec_getAuto_of_ok (autoRead_of_autoSelected hsel)⟩

/-- Settles O44: what `PUT_AUTO` leaves in the fresh buffer is what `GET_AUTO` selects. On the payload path the
immediate length is still the 0 that `INIT` wrote. -/
theorem autoRoundTrip : Obligations.AutoRoundTrip := by
  intro s b len wbytes T hlen hpos hT hroom
  rw [← hlen] at hpos hroom ⊢
  obtain ⟨u, hinit, -, hframe, hfresh⟩ := commitBuffer_completes s b (initBuffer (s.buf b))
  rw [← cap_eq_of_sameOutside hframe] at hroom
  by_cases hfew : wbytes.length ≤ T.toNat
  · obtain ⟨v, hput, -, -, hbuf⟩ := immSetter_completes u b wbytes (Nat.zero_le 16)
    rw [← exec_putAuto_immediate u b len hT hfew] at hput
    have hsel := autoSelected_of_immWritten hbuf hpos (by omega)
    refine ⟨u, v, hinit, hput, ?_, fun _ => ⟨?_, ?_⟩, fun hmany => absurd hfew (by omega)⟩
    · rw [if_pos hfew, exec_getAuto_of_ok (autoRead_of_autoSelected hsel)]
    · rw [byte_eq, hbuf, immlen_immWritten_zero _ (by omega)]
    · rw [hbuf, brOf_immWritten _ _ (Nat.zero_le 16), hfresh, brOf_initBuffer]
  · obtain ⟨v, hput, hframe', -, hbuf⟩ := putAuto_payload_completes u b len hT (by omega) hroom
    have hunused : readByte (u.buf b) 23 = 0 := by
      rw [hfresh, readByte_initBuffer]
      rfl
    have hsel := autoSelected_of_payWritten hbuf hunused (by rwa [cap_eq_of_sameOutside hframe'])
    refine ⟨u, v, hinit, hput, ?_, fun hle => absurd hle hfew, fun _ => ⟨?_, ?_⟩⟩
    · rw [if_neg hfew, exec_getAuto_of_ok (autoRead_of_autoSelected hsel)]
    · rw [byte_immlen_of_payWritten hbuf, hunused]
      rfl
    · rw [hbuf, brOf_payWritten_zero _ (cap_bounds u b).2 hroom]

end Sys2Proof.Machine

namespace Sys2Proof.Machine

/-! ### The buffer `FINALIZE` leaves (R320) -/

theorem memRead_msgtype_finalizeBuffer (t : Word) (m : Memory) :
    memRead (finalizeBuffer t m) 8 4 = leBytes 4 t.toNat := by
  rw [finalizeBuffer, writeFooter, memRead_memWrite_disjoint _ _ _ _ _ (.inl (by rw [ftOff_eq]; omega)),
    writeChecksum, memRead_memWrite_disjoint _ _ _ _ _ (.inl (by rw [ckOff_eq]; omega))]
  exact memRead_setField_same m fMsgtype t.toNat

/-- The checksum is the expected one of the whole buffer `FINALIZE` leaves: it covers the type, which is
written before it, and not the footer, which is written behind it. -/
theorem memRead_checksum_finalizeBuffer (t : Word) (m : Memory) :
    memRead (finalizeBuffer t m) (ckOff (finalizeBuffer t m)) 16
      = expectedChecksum (finalizeBuffer t m) := by
  have hfooter (n : Memory) : memRead (writeFooter n) (ckOff n) 16 = memRead n (ckOff n) 16 :=
    memRead_memWrite_disjoint _ _ _ _ _ (.inl (Nat.le_refl _))
  rw [finalizeBuffer, ckOff_writeFooter, expectedChecksum_writeFooter, hfooter, ckOff_writeChecksum,
    memRead_writeChecksum, expectedChecksum_writeChecksum]

theorem memRead_footer_finalizeBuffer (t : Word) (m : Memory) :
    memRead (finalizeBuffer t m) (ftOff (finalizeBuffer t m)) 4 = footerBytes := by
  rw [finalizeBuffer, ftOff_writeFooter]
  exact memRead_writeFooter _

theorem readByte_finalizeBuffer_out (t : Word) {m : Memory} {x : Nat} (hbr : 20 ≤ brOf m)
    (htype : x < 8 ∨ 12 ≤ x) (htail : x < 44 + (brOf m - 20) ∨ 44 + brOf m ≤ x) :
    readByte (finalizeBuffer t m) x = readByte m x := by
  have hset : brOf (setField m fMsgtype t.toNat) = brOf m := brOf_setField _ _ _ (by decide)
  have hfooter : footerBytes.length = 4 := rfl
  rw [finalizeBuffer, writeFooter, readByte_memWrite_out _ _ _ _ (by
      rw [ftOff_eq, brOf_writeChecksum, hset]; omega),
    writeChecksum, readByte_memWrite_out _ _ _ _ (by rw [ckOff_eq, hset, expectedChecksum_length]; omega),
    readByte_setField_out _ _ _ _ htype]

/-! ### Two bytes as a number (R8, R22) -/

theorem getField_two (m : Memory) (a : Nat) :
    getField m ⟨a, 2⟩ = (readByte m (a + 1) ++ readByte m a).toNat := by
  rw [BitVec.toNat_append, ← Nat.shiftLeft_add_eq_or_of_lt (readByte m a).isLt, Nat.shiftLeft_eq]
  simp only [getField, memRead, leValue]
  omega

/-- The word that the two bytes of `FLAGS` make. -/
theorem flagAt_eq (m : Memory) (pos : Fin 16) :
    flagAt m pos = (readByte m 5 ++ readByte m 4).getLsbD pos.val := by
  rw [flagAt, fFlags, getField_two]
  rfl

/-- R86 gives a flag by its mask; the model gives it by its position. -/
theorem getLsbD_iff_and_flagMask (f : Half) (pos : Fin 16) :
    f.getLsbD pos.val = true ↔ f &&& flagMask pos ≠ 0 := by
  have hmask : f &&& flagMask pos = if f.getLsbD pos.val then flagMask pos else 0 :=
    BitVec.and_twoPow f pos.val
  have hne : ∀ q : Fin 16, flagMask q ≠ 0 := by decide
  rw [hmask]
  cases f.getLsbD pos.val with
  | true => exact iff_of_true rfl (hne pos)
  | false => exact iff_of_false Bool.false_ne_true fun h => h rfl

/-! ### The words of `HDR_PARSE` and `RSP_CLASSIFY` (R323, R326) -/

theorem syncOk_iff (m : Memory) : syncOk m = true ↔ readByte m 0 = 0xC1 ∧ readByte m 1 = 0xC0 := by
  simp [syncOk, memRead, syncBytes]

theorem verOk_iff (m : Memory) : verOk m = true ↔ leValue (memRead m 2 2) = 0x1100 := beq_iff_eq

section hdrParseData
variable (cap : Nat) (m : Memory)

theorem hdrParseData_br : ((hdrParseData cap m).extractLsb' 0 32).toNat = brOf m := by
  rw [hdrParseData, BitVec.extractLsb'_append_eq_right, BitVec.toNat_ofNat, Nat.mod_eq_of_lt (brOf_lt m)]

/-- Bits 32 to 35: a judgement each. -/
theorem hdrParseData_judgements :
    (hdrParseData cap m).getLsbD 32 = syncOk m ∧ (hdrParseData cap m).getLsbD 33 = verOk m
      ∧ (hdrParseData cap m).getLsbD 34 = decide (minBr ≤ brOf m)
      ∧ (hdrParseData cap m).getLsbD 35 = decide (msgLen m ≤ cap) := by
  simp only [hdrParseData, BitVec.getLsbD_append]
  simp

theorem hdrParseData_high : (hdrParseData cap m).extractLsb' 36 28 = 0 := by
  simp only [hdrParseData, BitVec.extractLsb'_append_eq_of_le, Nat.reduceLeDiff, Nat.reduceSub]
  exact BitVec.extractLsb'_eq_self

end hdrParseData

section rspClassifyData
variable (p : FlagPositions) (m : Memory)

theorem rspClassifyData_flags :
    (rspClassifyData p m).getLsbD 0 = nackSet p m ∧ (rspClassifyData p m).getLsbD 1 = exceptionSet p m
      ∧ (rspClassifyData p m).getLsbD 2 = msgOk p m := by
  simp only [rspClassifyData, BitVec.getLsbD_append]
  simp

theorem rspClassifyData_zeros :
    (rspClassifyData p m).extractLsb' 3 13 = 0 ∧ (rspClassifyData p m).extractLsb' 32 32 = 0 := by
  constructor
  · simp only [rspClassifyData, BitVec.extractLsb'_append_eq_of_le, Nat.reduceLeDiff, Nat.reduceSub]
    exact BitVec.extractLsb'_append_eq_right
  · simp only [rspClassifyData, BitVec.extractLsb'_append_eq_of_le, Nat.reduceLeDiff, Nat.reduceSub]
    exact BitVec.extractLsb'_eq_self

theorem rspClassifyData_errno : (rspClassifyData p m).extractLsb' 16 16 = readByte m 7 ++ readByte m 6 := by
  simp only [rspClassifyData, BitVec.extractLsb'_append_eq_of_le, Nat.reduceLeDiff, Nat.reduceSub]
  rw [BitVec.extractLsb'_append_eq_right, fErrno, getField_two, BitVec.ofNat_toNat, BitVec.setWidth_eq]

end rspClassifyData

theorem msgOk_iff (p : FlagPositions) (m : Memory) :
    msgOk p m = true ↔ nackSet p m = false ∧ exceptionSet p m = false := by
  simp [msgOk]

/-! ### Admission (R331) -/

theorem exec_xact_of_fault {s : State} {msgType : Word} {always : Bool} {decOp decArg : Byte} {off len : Word}
    {f : CmdFault} (h : admitXact decOp s = .error f) :
    exec (.xact msgType always decOp decArg off len) s = takeFault f s := by
  show execXact msgType always decOp decArg off len s = _
  rw [execXact, h]

/-- A transaction that is not admitted ends as a command that faults. -/
theorem exec_xact_of_not_admitted {s : State} {decOp : Byte} (msgType : Word) (always : Bool) (decArg : Byte)
    (off len : Word) (h : ¬ (admitted decOp ∧ windowPasses s .req)) :
    ∃ f, exec (.xact msgType always decOp decArg off len) s = takeFault f s := by
  cases hadmit : admitXact decOp s with
  | error f => exact ⟨f, exec_xact_of_fault hadmit⟩
  | ok =>
    have hop : admissible decOp = true := by
      by_contra hop
      rw [admitXact, if_neg hop] at hadmit
      cases hadmit
    exact absurd ⟨(admissible_iff decOp).mp hop, admitXact_ok hadmit⟩ h

/-! ### The decode command is a read command on `RSP` (R331) -/

theorem mem_admissibleOps {decOp : Byte} (h : admitted decOp) : decOp.toNat ∈ admissibleOps :=
  List.contains_iff_mem.mp ((admissible_iff decOp).mpr h)

/-- R331's list, opcode by opcode: each but `0x00` is one of a read. -/
theorem decodeOp_admissible (c : Command) :
    ∀ op ∈ admissibleOps, op ≠ 0 → ∃ i, decodeOp .rsp c op = .ok i ∧ classOf i = (.read, some .rsp) := by
  intro op hop hne
  fin_cases hop
  · exact absurd rfl hne
  all_goals exact ⟨_, rfl, rfl⟩

/-- The record of an admitted decode command, with the query that both the command itself and `XACT` run. -/
theorem decode_decodeStepCommand {decOp : Byte} (decArg : Byte) (off len : Word) (ha : admitted decOp)
    (hne : decOp ≠ 0) :
    ∃ i, decode (decodeStepCommand decOp decArg off len) = .ok i ∧ classOf i = (.read, some .rsp)
      ∧ ∀ s, queryInstr s i = some (runDecode decOp decArg off len s) := by
  have hop : decOp.toNat ≠ 0 := fun h => hne (BitVec.eq_of_toNat_eq h)
  obtain ⟨i, hi, hclass⟩ := decodeOp_admissible (decodeStepCommand decOp decArg off len) decOp.toNat
    (mem_admissibleOps ha) hop
  have hdecode : decode (decodeStepCommand decOp decArg off len) = .ok i :=
    (decode_commandWord decOp .rsp off len (decArg.setWidth 64) []).trans hi
  refine ⟨i, hdecode, hclass, fun s => ?_⟩
  obtain ⟨q, hq⟩ := queryInstr_of_read s (congrArg Prod.fst hclass)
  simp only [runDecode, hdecode, hq]

/-- The decode command run by itself in a state with the same parameters and buffers. -/
theorem exec_decodeStep {decOp : Byte} {s u : State} (decArg : Byte) (off len : Word) (ha : admitted decOp)
    (hne : decOp ≠ 0) (hparams : u.params = s.params) (hreq : u.req = s.req) (hrsp : u.rsp = s.rsp) :
    ∃ i, decode (decodeStepCommand decOp decArg off len) = .ok i ∧ classOf i = (.read, some .rsp)
      ∧ exec i u = answerQuery u (runDecode decOp decArg off len s) := by
  obtain ⟨i, hdecode, hclass, hquery⟩ := decode_decodeStepCommand decArg off len ha hne
  exact ⟨i, hdecode, hclass, exec_of_queryInstr ((queryInstr_congr i hparams hreq hrsp).trans (hquery s))⟩

/-! ### The states a transaction passes through (R330 to R336) -/

/-- `RSP` after the clear at the entry of step 5 (R335). -/
def clearedRsp (s : State) : Memory := if s.params.xactClearsRsp then zeroed s.rsp else s.rsp

theorem readByte_clearedRsp (s : State) (a : Nat) : readByte (clearedRsp s) a = clearedByte s a := by
  unfold clearedRsp clearedByte
  split
  · exact readByte_zeroed s.rsp a
  · rfl

/-- The transaction begun in `s`, after it finalized the request, which is then `req`, and sent it, made the
calls `received` (newest first) and left `rsp` in the response buffer. The lemmas keep `req` a variable, so that
no proof evaluates the finalized buffer. -/
def inTransaction (req rsp : Memory) (received : List TransportCall) (rest : List TransportAnswer)
    (x : XState) (s : State) : State :=
  { s with
    req := req, rsp := rsp, xstate := x, answers := rest
    calls := received ++ .sendBytes (memRead req 0 (44 + brOf req)) :: s.calls }

theorem transacted_inTransaction {s : State} (msgType : Word) (rsp : Memory) (received : List TransportCall)
    (rest : List TransportAnswer) (x : XState) (r : Response) (hw : windowPasses s .req) :
    transacted msgType received rest s
      ((inTransaction (finalizeBuffer msgType s.req) rsp received rest x s).respond r) := by
  refine ⟨_, exec_finalize msgType hw.1 hw.2, ?_⟩
  simp [inTransaction]

/-! ### The packed result (R340) -/

/-- The response of a transaction without results of a decode command. -/
theorem endsWith_of_xactResponse {t : State} {x : XResult} (h : t.response = some (xactResponse x {})) :
    endsWith (xresWord x.kind.code.toNat (statusCode x.io).toNat x.step.toNat (xstateCode x.xs).toNat
      (BitVec.ofBool x.rspValid).toNat x.errno.toNat x.fault.toNat) t := by
  rw [endsWith, h, xactResponse, pack_eq]
  rfl

/-- The status an IO failure reports: its own, or that too few bytes came (R335, R336). -/
theorem statusCode_reported (st : TransportStatus) :
    (statusCode (if st = .success then .insufficientData else st)).toNat
      = if st = .success then 6 else (statusCode st).toNat := by
  split <;> rfl

theorem statusCode_claimed (br : Nat) :
    (statusCode (if br < 20 then .insufficientData else .outOfRange)).toNat = if br < 20 then 6 else 4 := by
  split <;> rfl

/-! ### What arrives (R335, R336) -/

/-- `RSP` after a whole header. -/
def withHeader (s : State) (h : List Byte) : Memory := memWrite (clearedRsp s) 0 (h.take 44)

section received
variable {s : State} {h p : List Byte}

/-- The bytes-remaining field of the buffer is that of the header received. -/
theorem brOf_withHeader (hh : 44 ≤ h.length) : brOf (withHeader s h) = headerBr h := by
  have hread : memRead (withHeader s h) 40 4 = (h.drop 40).take 4 := by
    have hin := memRead_memWrite_inside (clearedRsp s) 0 40 4 (h.take 44) (by rw [List.length_take]; omega)
    rw [Nat.zero_add] at hin
    rw [withHeader, hin, List.drop_take, List.take_take]
    rfl
  show leValue (memRead (withHeader s h) 40 4) = _
  rw [hread, headerBr]

theorem readByte_withHeader (hh : 44 ≤ h.length) (a : Nat) :
    readByte (withHeader s h) a = if a < 44 then h.getD a 0 else clearedByte s a := by
  have hlen : (h.take 44).length = 44 := List.length_take_of_le hh
  rw [withHeader]
  split
  · next ha =>
    have hin := readByte_memWrite_in (clearedRsp s) 0 a (h.take 44) (by omega)
    rw [Nat.zero_add] at hin
    rw [hin, List.getElem_take, List.getD_eq_getElem _ _ (by omega)]
  · next ha => rw [readByte_memWrite_out _ _ _ _ (by omega), readByte_clearedRsp]

/-- `RSP` after a whole response. -/
def withResponse (s : State) (h p : List Byte) : Memory :=
  memWrite (withHeader s h) 44 (p.take (headerBr h))

theorem brOf_withResponse (hh : 44 ≤ h.length) : brOf (withResponse s h p) = headerBr h := by
  rw [withResponse, brOf_memWrite _ _ _ (.inl (Nat.le_refl 44)), brOf_withHeader hh]

theorem readByte_withResponse (hh : 44 ≤ h.length) (hp : headerBr h ≤ p.length) (a : Nat) :
    readByte (withResponse s h p) a
      = if a < 44 then h.getD a 0 else if a < 44 + headerBr h then p.getD (a - 44) 0
        else clearedByte s a := by
  have hlen : (p.take (headerBr h)).length = headerBr h := List.length_take_of_le hp
  rw [withResponse]
  by_cases ha : a < 44
  · rw [readByte_memWrite_out _ _ _ _ (.inl ha), readByte_withHeader hh, if_pos ha, if_pos ha]
  · rw [if_neg ha]
    split
    · next hin =>
      rw [readByte_memWrite, dif_pos (by omega), List.getElem_take, List.getD_eq_getElem _ _ (by omega)]
    · next hout =>
      rw [readByte_memWrite_out _ _ _ _ (by omega), readByte_withHeader hh, if_neg ha]

end received

/-! ### The stages of a transaction on a given script -/

section stages
variable {s : State} {req rsp : Memory} {x : XState} {bytes h p : List Byte} {st : TransportStatus}
  {rest : List TransportAnswer}

theorem xactSend_finalized_failure (hans : s.answers = .answered st bytes :: rest) (hst : st ≠ .success) :
    xactSend { s with req := req, xstate := x }
      = .ended (inTransaction req s.rsp [] rest .failed s) (ioFailure st 3) {} :=
  (xactSend_answered (s := { s with req := req, xstate := x }) hans).trans (if_neg hst)

theorem xactSend_finalized_success (hans : s.answers = .answered .success bytes :: rest) :
    xactSend { s with req := req, xstate := x } = .goOn (inTransaction req s.rsp [] rest .sent s) :=
  (xactSend_answered (s := { s with req := req, xstate := x }) hans).trans (if_pos rfl)

theorem xactAwait_inTransaction (always : Bool) :
    xactAwait always (inTransaction req rsp [] rest x s)
      = if always || ackRequested s.params.flags req then .goOn (inTransaction req rsp [] rest x s)
        else .ended (inTransaction req rsp [] rest .success s)
          { kind := .success, step := 4, xs := .success } {} := rfl

theorem xactAwaitHeader_inTransaction :
    xactAwaitHeader (inTransaction req s.rsp [] rest x s)
      = .goOn (inTransaction req (clearedRsp s) [] rest .awaitingHeader s) := rfl

/-- Step 5 (R335): the header does not come whole, and its span holds some bytes. -/
theorem xactHeader_inTransaction_failure (hn : st ≠ .success ∨ h.length < 44) :
    ∃ bs : List Byte, bs.length = 44
      ∧ xactHeader (inTransaction req (clearedRsp s) [] (.answered st h :: rest) x s)
        = .ended (inTransaction req (memWrite (clearedRsp s) 0 bs) [.receiveBytes 0 44] rest .failed s)
            (ioFailure (if st = .success then .insufficientData else st) 5) {} :=
  ⟨_, freeBytes_length _ 0 44, xactHeader_failure rfl hn⟩

theorem xactHeader_inTransaction_success (hh : 44 ≤ h.length) :
    xactHeader (inTransaction req (clearedRsp s) [] (.answered .success h :: rest) x s)
      = .goOn (inTransaction req (withHeader s h) [.receiveBytes 0 44] rest .awaitingRemainder s) :=
  xactHeader_success rfl hh

/-- Step 6 (R336): the header claims too few or too many bytes, and no second receive is made. -/
theorem xactRemainder_badLength {u : State}
    (hbad : brOf u.rsp < 20 ∨ u.params.capRsp.bytes < 44 + brOf u.rsp) :
    xactRemainder u
      = .ended { u with xstate := .failed }
          (ioFailure (if brOf u.rsp < 20 then .insufficientData else .outOfRange) 6) {} := by
  unfold xactRemainder
  rw [show minBr = 20 from rfl, msgLen_eq]
  by_cases hshort : brOf u.rsp < 20
  · rw [if_pos hshort, if_pos hshort]
    rfl
  · rw [if_neg hshort, if_neg hshort, if_pos (hbad.resolve_left hshort)]
    rfl

theorem xactRemainder_inTransaction_badLength (hh : 44 ≤ h.length)
    (hbad : headerBr h < 20 ∨ s.cap .rsp < 44 + headerBr h) :
    xactRemainder (inTransaction req (withHeader s h) [.receiveBytes 0 44] rest x s)
      = .ended (inTransaction req (withHeader s h) [.receiveBytes 0 44] rest .failed s)
          (ioFailure (if headerBr h < 20 then .insufficientData else .outOfRange) 6) {} := by
  rw [← brOf_withHeader (s := s) hh] at hbad ⊢
  exact xactRemainder_badLength hbad

/-- Step 6 (R336): the bytes after the header do not come whole, and their span holds some bytes. -/
theorem xactRemainder_inTransaction_failure (hh : 44 ≤ h.length) (hbr : 20 ≤ headerBr h)
    (hfit : 44 + headerBr h ≤ s.cap .rsp) (hn : st ≠ .success ∨ p.length < headerBr h) :
    ∃ bs : List Byte, bs.length = headerBr h
      ∧ xactRemainder (inTransaction req (withHeader s h) [.receiveBytes 0 44] (.answered st p :: rest) x s)
        = .ended (inTransaction req (memWrite (withHeader s h) 44 bs)
              [.receiveBytes 44 (headerBr h), .receiveBytes 0 44] rest .failed s)
            (ioFailure (if st = .success then .insufficientData else st) 6) {} := by
  rw [← brOf_withHeader (s := s) hh] at hbr hfit hn ⊢
  exact ⟨_, freeBytes_length _ 44 _, xactRemainder_failure hbr hfit rfl hn⟩

theorem xactRemainder_inTransaction_success (hh : 44 ≤ h.length) (hbr : 20 ≤ headerBr h)
    (hfit : 44 + headerBr h ≤ s.cap .rsp) (hp : headerBr h ≤ p.length) :
    xactRemainder (inTransaction req (withHeader s h) [.receiveBytes 0 44] (.answered .success p :: rest) x s)
      = .goOn (inTransaction req (withResponse s h p)
          [.receiveBytes 44 (headerBr h), .receiveBytes 0 44] rest x s) := by
  rw [withResponse]
  rw [← brOf_withHeader (s := s) hh] at hbr hfit hp ⊢
  exact xactRemainder_success hbr hfit rfl hp

end stages

/-! ### The whole transaction on a given script -/

/-- The stages after the request is finalized as `req` (R333 to R339). -/
def runFinalized (always : Bool) (decOp decArg : Byte) (off len : Word) (req : Memory) (s : State) : XStage :=
  (xactSend { s with req := req, xstate := .requestFinalized })
    |>.andThen (xactAwait always)
    |>.andThen xactAwaitHeader
    |>.andThen xactHeader
    |>.andThen xactRemainder
    |>.andThen xactValidate
    |>.andThen xactClassify
    |>.andThen (xactDecode decOp decArg off len)

theorem runXact_eq_runFinalized (msgType : Word) (always : Bool) (decOp decArg : Byte) (off len : Word)
    (s : State) :
    runXact msgType always decOp decArg off len s
      = runFinalized always decOp decArg off len (finalizeBuffer msgType s.req) s := by
  rw [runXact, xactBegin, andThen_goOn, xactFinalize, andThen_goOn, runFinalized]

/-- The stages from the receipt of the whole response on (R337 to R339). -/
def judgeResponse (decOp decArg : Byte) (off len : Word) (u : State) : XStage :=
  (xactValidate u)
    |>.andThen xactClassify
    |>.andThen (xactDecode decOp decArg off len)

/-- The stages that judge, one after the other or as one. -/
theorem andThen_judgeResponse (p : XStage) (decOp decArg : Byte) (off len : Word) :
    ((p.andThen xactValidate).andThen xactClassify).andThen (xactDecode decOp decArg off len)
      = p.andThen (judgeResponse decOp decArg off len) := by
  cases p <;> rfl

section run
variable {s : State} {req : Memory} {always : Bool} {decOp decArg : Byte} {off len : Word}
  {bytes h p : List Byte} {st : TransportStatus} {rest : List TransportAnswer}

theorem runFinalized_sendFailure (hans : s.answers = .answered st bytes :: rest) (hst : st ≠ .success) :
    runFinalized always decOp decArg off len req s
      = .ended (inTransaction req s.rsp [] rest .failed s) (ioFailure st 3) {} := by
  simp only [runFinalized, xactSend_finalized_failure hans hst, andThen_ended]

theorem runFinalized_withoutResponse (hans : s.answers = .answered .success bytes :: rest)
    (hno : ¬ (always || ackRequested s.params.flags req) = true) :
    runFinalized always decOp decArg off len req s
      = .ended (inTransaction req s.rsp [] rest .success s)
          { kind := .success, step := 4, xs := .success } {} := by
  simp only [runFinalized, xactSend_finalized_success hans, xactAwait_inTransaction, if_neg hno, andThen_goOn,
    andThen_ended]

section awaits
variable (haw : (always || ackRequested s.params.flags req) = true)
include haw

/-- A response is awaited, and step 5 follows. -/
theorem runFinalized_awaits (hans : s.answers = .answered .success bytes :: rest) :
    runFinalized always decOp decArg off len req s
      = ((xactHeader (inTransaction req (clearedRsp s) [] rest .awaitingHeader s)).andThen xactRemainder
        |>.andThen (judgeResponse decOp decArg off len)) := by
  simp only [runFinalized, xactSend_finalized_success hans, xactAwait_inTransaction, if_pos haw,
    xactAwaitHeader_inTransaction, andThen_goOn, andThen_judgeResponse]

theorem runFinalized_headerFailure (hans : s.answers = .answered .success bytes :: .answered st h :: rest)
    (hn : st ≠ .success ∨ h.length < 44) :
    ∃ bs : List Byte, bs.length = 44
      ∧ runFinalized always decOp decArg off len req s
        = .ended (inTransaction req (memWrite (clearedRsp s) 0 bs) [.receiveBytes 0 44] rest .failed s)
            (ioFailure (if st = .success then .insufficientData else st) 5) {} := by
  obtain ⟨bs, hlen, hheader⟩ := xactHeader_inTransaction_failure (s := s) (req := req)
    (x := .awaitingHeader) (rest := rest) hn
  refine ⟨bs, hlen, ?_⟩
  rw [runFinalized_awaits haw hans, hheader, andThen_ended, andThen_ended]

section header
variable (hh : 44 ≤ h.length)
include hh

/-- The header comes, and step 6 follows. -/
theorem runFinalized_header
    (hans : s.answers = .answered .success bytes :: .answered .success h :: rest) :
    runFinalized always decOp decArg off len req s
      = (xactRemainder
          (inTransaction req (withHeader s h) [.receiveBytes 0 44] rest .awaitingRemainder s)).andThen
        (judgeResponse decOp decArg off len) := by
  rw [runFinalized_awaits haw hans, xactHeader_inTransaction_success hh, andThen_goOn]

theorem runFinalized_badLength
    (hans : s.answers = .answered .success bytes :: .answered .success h :: rest)
    (hbad : headerBr h < 20 ∨ s.cap .rsp < 44 + headerBr h) :
    runFinalized always decOp decArg off len req s
      = .ended (inTransaction req (withHeader s h) [.receiveBytes 0 44] rest .failed s)
          (ioFailure (if headerBr h < 20 then .insufficientData else .outOfRange) 6) {} := by
  rw [runFinalized_header haw hh hans, xactRemainder_inTransaction_badLength hh hbad, andThen_ended]

variable (hbr : 20 ≤ headerBr h) (hfit : 44 + headerBr h ≤ s.cap .rsp)
include hbr hfit

theorem runFinalized_remainderFailure
    (hans : s.answers = .answered .success bytes :: .answered .success h :: .answered st p :: rest)
    (hn : st ≠ .success ∨ p.length < headerBr h) :
    ∃ bs : List Byte, bs.length = headerBr h
      ∧ runFinalized always decOp decArg off len req s
        = .ended (inTransaction req (memWrite (withHeader s h) 44 bs)
              [.receiveBytes 44 (headerBr h), .receiveBytes 0 44] rest .failed s)
            (ioFailure (if st = .success then .insufficientData else st) 6) {} := by
  obtain ⟨bs, hlen, hremainder⟩ := xactRemainder_inTransaction_failure (req := req)
    (x := .awaitingRemainder) (rest := rest) hh hbr hfit hn
  refine ⟨bs, hlen, ?_⟩
  rw [runFinalized_header haw hh hans, hremainder, andThen_ended]

/-- The whole response comes, and is judged. -/
theorem runFinalized_delivered
    (hans : s.answers
      = .answered .success bytes :: .answered .success h :: .answered .success p :: rest)
    (hp : headerBr h ≤ p.length) :
    runFinalized always decOp decArg off len req s
      = judgeResponse decOp decArg off len (inTransaction req (withResponse s h p)
          [.receiveBytes 44 (headerBr h), .receiveBytes 0 44] rest .awaitingRemainder s) := by
  rw [runFinalized_header haw hh hans, xactRemainder_inTransaction_success hh hbr hfit hp, andThen_goOn]

end header

end awaits

end run

/-! ### The judgement of a whole response (R337 to R339) -/

/-- R337, of a response with this bytes-remaining: the footer is wrong, or under `XACT_STRICT_HEADER` the sync
or the version is. -/
abbrev misframed (strict : Bool) (br : Nat) (m : Memory) : Prop :=
  memRead m (44 + (br - 4)) 4 ≠ [0xC5, 0xC4, 0xC3, 0xC2]
    ∨ (strict = true ∧ (memRead m 0 2 ≠ [0xC1, 0xC0] ∨ leValue (memRead m 2 2) ≠ 0x1100))

/-- R338: NACK or exception. -/
abbrev deviceRefused (p : FlagPositions) (m : Memory) : Prop := nackSet p m = true ∨ exceptionSet p m = true

theorem misframed_iff {m : Memory} {br : Nat} (strict : Bool) (hbr : brOf m = br) (hmin : 20 ≤ br) :
    misframed strict br m
      ↔ (!footerOk m) = true ∨ (strict && !(syncOk m && verOk m)) = true := by
  have hfooter : footerOk m = true ↔ memRead m (44 + (br - 4)) 4 = [0xC5, 0xC4, 0xC3, 0xC2] := by
    rw [← hbr, ← ftOff_of_legal (hbr ▸ hmin)]
    exact beq_iff_eq
  have hsync : syncOk m = true ↔ memRead m 0 2 = [0xC1, 0xC0] := beq_iff_eq
  have hver : verOk m = true ↔ leValue (memRead m 2 2) = 0x1100 := beq_iff_eq
  rw [misframed, ne_eq, ne_eq, ne_eq, ← hfooter, ← hsync, ← hver, Bool.not_eq_true', Bool.and_eq_true,
    Bool.not_eq_true', Bool.and_eq_false_iff]
  simp only [Bool.not_eq_true]

theorem deviceRefused_iff (p : FlagPositions) (m : Memory) : deviceRefused p m ↔ (!msgOk p m) = true := by
  rw [deviceRefused, msgOk, Bool.not_and, Bool.not_not, Bool.not_not, Bool.or_eq_true]

section judgement
variable {u : State} {br : Nat} {decOp decArg : Byte} {off len : Word}

/-- The footer is tested before the sync and the version, but all three end alike. -/
theorem xactValidate_of_misframed (hbr : brOf u.rsp = br) (hmin : 20 ≤ br)
    (h : misframed u.params.xactStrictHeader br u.rsp) :
    xactValidate u = xactFail u { kind := .framingError, step := 6, xs := .failed, rspValid := true } := by
  have htests := (misframed_iff _ hbr hmin).mp h
  unfold xactValidate
  by_cases hfooter : (!footerOk u.rsp) = true
  · rw [if_pos hfooter]
  · rw [if_neg hfooter, if_pos (htests.resolve_left hfooter)]

theorem xactValidate_of_not_misframed (hbr : brOf u.rsp = br) (hmin : 20 ≤ br)
    (h : ¬ misframed u.params.xactStrictHeader br u.rsp) : xactValidate u = .goOn u := by
  obtain ⟨hfooter, hstrict⟩ := not_or.mp (mt (misframed_iff _ hbr hmin).mpr h)
  rw [xactValidate, if_neg hfooter, if_neg hstrict]

theorem xactClassify_of_refused (h : deviceRefused u.params.flags u.rsp) :
    xactClassify u = xactFail u { kind := .protocolFailure, step := 7, xs := .failed, rspValid := true,
                                  errno := BitVec.ofNat 16 (getField u.rsp fErrno) } := by
  rw [xactClassify, if_pos ((deviceRefused_iff _ _).mp h)]

theorem xactClassify_of_not_refused (h : ¬ deviceRefused u.params.flags u.rsp) : xactClassify u = .goOn u := by
  rw [xactClassify, if_neg (mt (deviceRefused_iff _ _).mpr h)]

theorem judgeResponse_misframed (hbr : brOf u.rsp = br) (hmin : 20 ≤ br)
    (h : misframed u.params.xactStrictHeader br u.rsp) :
    judgeResponse decOp decArg off len u
      = xactFail u { kind := .framingError, step := 6, xs := .failed, rspValid := true } := by
  rw [judgeResponse, xactValidate_of_misframed hbr hmin h, xactFail, andThen_ended, andThen_ended]

section framed
variable (hbr : brOf u.rsp = br) (hmin : 20 ≤ br) (hframed : ¬ misframed u.params.xactStrictHeader br u.rsp)
include hbr hmin hframed

theorem judgeResponse_refused (h : deviceRefused u.params.flags u.rsp) :
    judgeResponse decOp decArg off len u
      = xactFail u { kind := .protocolFailure, step := 7, xs := .failed, rspValid := true,
                     errno := BitVec.ofNat 16 (getField u.rsp fErrno) } := by
  rw [judgeResponse, xactValidate_of_not_misframed hbr hmin hframed, andThen_goOn, xactClassify_of_refused h,
    xactFail, andThen_ended]

theorem judgeResponse_accepted (h : ¬ deviceRefused u.params.flags u.rsp) :
    judgeResponse decOp decArg off len u = xactDecode decOp decArg off len u := by
  rw [judgeResponse, xactValidate_of_not_misframed hbr hmin hframed, andThen_goOn, xactClassify_of_not_refused h,
    andThen_goOn]

end framed

theorem xactDecode_none : xactDecode 0 decArg off len u = xactComplete {} u := rfl

theorem xactDecode_of_ok {r : Results} (hne : decOp ≠ 0) (h : runDecode decOp decArg off len u = .ok r) :
    xactDecode decOp decArg off len u = xactComplete r u := by
  rw [xactDecode, if_neg hne, h]
  rfl

theorem xactDecode_of_error {f : CmdFault} (hne : decOp ≠ 0)
    (h : runDecode decOp decArg off len u = .error f) :
    xactDecode decOp decArg off len u
      = xactFail u { kind := .decodeFault, step := 8, xs := .failed, rspValid := true, fault := f.code } := by
  rw [xactDecode, if_neg hne, h]

end judgement

/-! ### Everything a transaction can do, whatever the transport answers -/

/-- What a stage meets: it goes on in a state with `P`, or has ended in a state and with a result that have
`Q`; it is silent only where `N` holds. -/
def XStage.Obeys (P : State → Prop) (Q : State → XResult → Prop) (N : Prop) : XStage → Prop
  | .goOn s => P s
  | .ended s x _ => Q s x
  | .silent => N

/-- Two stages, one after the other. -/
theorem XStage.Obeys.andThen {P P' : State → Prop} {Q : State → XResult → Prop} {N : Prop} {p : XStage}
    {k : State → XStage} (hp : p.Obeys P Q N) (hk : ∀ s, P s → (k s).Obeys P' Q N) :
    (p.andThen k).Obeys P' Q N := by
  cases p with
  | goOn s => exact hk s hp
  | ended s x r => exact hp
  | silent => exact hp

/-- A stage that waits for the transport is silent only when the next scripted answer is silence. -/
theorem silent_of_xactSend {u : State} (h : xactSend u = .silent) : u.answers.head? = some .silent := by
  unfold xactSend at h
  split at h
  · next hc => exact callTransport_none.mp hc
  · split at h <;> cases h

theorem silent_of_xactHeader {u : State} (h : xactHeader u = .silent) : u.answers.head? = some .silent := by
  unfold xactHeader at h
  split at h
  · next hc => exact receiveBytes_none.mp hc
  · split at h
    · cases h
    · split at h <;> cases h

theorem silent_of_xactRemainder {u : State} (h : xactRemainder u = .silent) :
    u.answers.head? = some .silent := by
  unfold xactRemainder at h
  split at h
  · cases h
  · split at h
    · cases h
    · split at h
      · next hc => exact receiveBytes_none.mp hc
      · split at h
        · cases h
        · split at h <;> cases h

/-- One of the first three scripted answers is silence. -/
def silentSoon (s : State) : Prop := .silent ∈ s.answers.take 3

theorem silentSoon_of_head? {s : State} {k : Nat} (hk : k < 3)
    (h : (s.answers.drop k).head? = some .silent) : silentSoon s := by
  rw [List.head?_drop] at h
  obtain ⟨hlt, hget⟩ := List.getElem?_eq_some_iff.mp h
  exact List.mem_take_iff_getElem.mpr ⟨k, by omega, hget⟩

/-- The receives made (newest first) and what they leave in `RSP`, of which nothing is said inside the
received spans (R335, R336, R373). -/
inductive Received (s : State) : Memory → List TransportCall → Prop
  /-- No response was awaited, or the send failed. -/
  | nothing : Received s s.rsp []
  /-- The header was asked for. -/
  | header {m : Memory} (hout : ∀ a, 44 ≤ a → readByte m a = clearedByte s a) :
    Received s m [.receiveBytes 0 44]
  /-- The header came, and the rest was asked for. -/
  | response {m : Memory} (hbr : 20 ≤ brOf m) (hfit : 44 + brOf m ≤ s.cap .rsp)
    (hout : ∀ a, 44 + brOf m ≤ a → readByte m a = clearedByte s a) :
    Received s m [.receiveBytes 44 (brOf m), .receiveBytes 0 44]

/-- The transaction has made these receives, each of which took an answer, as the send did. -/
def Reached (req : Memory) (s : State) (received : List TransportCall) (u : State) : Prop :=
  ∃ m x, u = inTransaction req m received (s.answers.drop (received.length + 1)) x s ∧ Received s m received

theorem Reached.moveTo {req : Memory} {s u : State} {received : List TransportCall}
    (h : Reached req s received u) (y : XState) : Reached req s received { u with xstate := y } := by
  obtain ⟨m, x, rfl, hm⟩ := h
  exact ⟨m, y, rfl, hm⟩

/-- The transaction has made some of its receives. -/
def Underway (req : Memory) (s u : State) : Prop := ∃ received, Reached req s received u

/-- The result and the sequencer agree on success or failure (R340, R341). -/
def Agrees (u : State) (x : XResult) : Prop :=
  (u.xstate = .success ∧ x.xs = .success ∧ x.kind = .success)
    ∨ (u.xstate = .failed ∧ x.xs = .failed ∧ x.kind ≠ .success)

/-- How a transaction ends. -/
def Finished (req : Memory) (s u : State) (x : XResult) : Prop :=
  Underway req s u ∧ Agrees u x

section finished
variable {req : Memory} {s u : State} {received : List TransportCall} {P : State → Prop}

theorem obeys_xactFail {x : XResult} (h : Reached req s received u) (hxs : x.xs = .failed)
    (hkind : x.kind ≠ .success) : (xactFail u x).Obeys P (Finished req s) (silentSoon s) :=
  ⟨⟨received, h.moveTo .failed⟩, .inr ⟨rfl, hxs, hkind⟩⟩

theorem obeys_xactSend :
    (xactSend { s with req := req, xstate := .requestFinalized }).Obeys (Reached req s [])
      (Finished req s) (silentSoon s) := by
  have hreached (x : XState) :
      Reached req s [] (inTransaction req s.rsp [] s.answers.tail x s) :=
    ⟨s.rsp, x, by rw [← List.drop_one]; rfl, .nothing⟩
  obtain he | he | ⟨st, -, he⟩ := xactSend_cases { s with req := req, xstate := .requestFinalized }
  · rw [he]
    have hhead := silent_of_xactSend he
    exact silentSoon_of_head? (k := 0) (by decide) hhead
  · rw [he]
    exact hreached .sent
  · rw [he]
    exact obeys_xactFail (hreached .requestFinalized) rfl (by simp [ioFailure])

theorem obeys_xactAwait (always : Bool) (h : Reached req s [] u) :
    (xactAwait always u).Obeys (Reached req s []) (Finished req s) (silentSoon s) := by
  unfold xactAwait
  split
  · exact h
  · exact ⟨⟨[], h.moveTo .success⟩, .inl ⟨rfl, rfl, rfl⟩⟩

theorem obeys_xactAwaitHeader (h : Reached req s [] u) :
    (xactAwaitHeader u).Obeys
      (· = inTransaction req (clearedRsp s) [] (s.answers.drop 1) .awaitingHeader s)
      (Finished req s) (silentSoon s) := by
  obtain ⟨m, x, rfl, ⟨⟩⟩ := h
  rw [xactAwaitHeader_inTransaction]
  rfl

theorem obeys_xactHeader
    (h : u = inTransaction req (clearedRsp s) [] (s.answers.drop 1) .awaitingHeader s) :
    (xactHeader u).Obeys (Reached req s [.receiveBytes 0 44]) (Finished req s) (silentSoon s) := by
  have hreached (x : XState) (bs : List Byte) (hlen : bs.length = 44) :
      Reached req s [.receiveBytes 0 44] (inTransaction req (memWrite (clearedRsp s) 0 bs)
        [.receiveBytes 0 44] (s.answers.drop 1).tail x s) := by
    refine ⟨_, x, by rw [List.tail_drop]; rfl, .header fun a ha => ?_⟩
    rw [readByte_memWrite_out _ _ _ _ (by omega), readByte_clearedRsp]
  subst h
  obtain he | ⟨bs, hlen, he | ⟨io, -, he⟩⟩ :=
    xactHeader_cases (inTransaction req (clearedRsp s) [] (s.answers.drop 1) .awaitingHeader s)
  · rw [he]
    exact silentSoon_of_head? (k := 1) (by decide) (silent_of_xactHeader he)
  · rw [he]
    exact hreached .awaitingRemainder bs hlen
  · rw [he]
    exact obeys_xactFail (hreached .awaitingHeader bs hlen) rfl (by simp [ioFailure])

theorem obeys_xactRemainder (h : Reached req s [.receiveBytes 0 44] u) :
    (xactRemainder u).Obeys (Underway req s) (Finished req s) (silentSoon s) := by
  have hfail (io : TransportStatus) {v : State} {received : List TransportCall}
      (hv : Reached req s received v) :
      (xactFail v (ioFailure io 6)).Obeys (Underway req s) (Finished req s) (silentSoon s) :=
    obeys_xactFail hv rfl (by simp [ioFailure])
  obtain ⟨-, io, -, he⟩ | ⟨hbr, hfit, hcalled⟩ := xactRemainder_cases u
  · rw [he]
    exact hfail io h
  obtain ⟨m, x, rfl, ⟨⟩ | ⟨hout⟩⟩ := h
  have hreached (bs : List Byte) (hlen : bs.length = brOf m) :
      Reached req s [.receiveBytes 44 (brOf m), .receiveBytes 0 44] (inTransaction req (memWrite m 44 bs)
        [.receiveBytes 44 (brOf m), .receiveBytes 0 44] (s.answers.drop 2).tail x s) := by
    have hkeep : brOf (memWrite m 44 bs) = brOf m := brOf_memWrite _ _ _ (.inl (Nat.le_refl 44))
    refine ⟨_, x, by rw [List.tail_drop]; rfl, ?_⟩
    rw [← hkeep]
    refine .response (by rwa [hkeep]) (by rwa [hkeep]) fun a ha => ?_
    rw [readByte_memWrite_out _ _ _ _ (by omega), hout a (by omega)]
  obtain he | ⟨bs, hlen, he | ⟨io, -, he⟩⟩ := hcalled
  · rw [he]
    exact silentSoon_of_head? (k := 2) (by decide) (silent_of_xactRemainder he)
  · rw [he]
    exact ⟨_, hreached bs hlen⟩
  · rw [he]
    exact hfail io (hreached bs hlen)

theorem obeys_xactValidate (h : Underway req s u) :
    (xactValidate u).Obeys (Underway req s) (Finished req s) (silentSoon s) := by
  obtain ⟨received, hu⟩ := h
  obtain he | ⟨x, hkind, hxs, he⟩ := xactValidate_cases u <;> rw [he]
  · exact ⟨received, hu⟩
  · exact obeys_xactFail hu hxs (by simp [hkind])

theorem obeys_xactClassify (h : Underway req s u) :
    (xactClassify u).Obeys (Underway req s) (Finished req s) (silentSoon s) := by
  obtain ⟨received, hu⟩ := h
  obtain he | ⟨x, hkind, hxs, he⟩ := xactClassify_cases u <;> rw [he]
  · exact ⟨received, hu⟩
  · exact obeys_xactFail hu hxs (by simp [hkind])

theorem obeys_xactDecode (decOp decArg : Byte) (off len : Word) (h : Underway req s u) :
    (xactDecode decOp decArg off len u).Obeys (fun _ => False) (Finished req s) (silentSoon s) := by
  obtain ⟨received, hu⟩ := h
  obtain ⟨x, r, hkind, hxs, he⟩ | ⟨x, hkind, hxs, he⟩ := xactDecode_cases decOp decArg off len u <;> rw [he]
  · exact ⟨⟨received, hu.moveTo .success⟩, .inl ⟨rfl, hxs, hkind⟩⟩
  · exact obeys_xactFail hu hxs (by simp [hkind])

end finished

/-- The stages in order: they end the transaction, or meet silence in the first three answers. -/
theorem obeys_runFinalized (always : Bool) (decOp decArg : Byte) (off len : Word) (req : Memory) (s : State) :
    (runFinalized always decOp decArg off len req s).Obeys (fun _ => False) (Finished req s) (silentSoon s) :=
  obeys_xactSend
    |>.andThen (fun _ => obeys_xactAwait always)
    |>.andThen (fun _ => obeys_xactAwaitHeader)
    |>.andThen (fun _ => obeys_xactHeader)
    |>.andThen (fun _ => obeys_xactRemainder)
    |>.andThen (fun _ => obeys_xactValidate)
    |>.andThen (fun _ => obeys_xactClassify)
    |>.andThen (fun _ => obeys_xactDecode decOp decArg off len)

/-- Everything an admitted `XACT` can do. -/
theorem exec_xact_cases {s : State} {req : Memory} {msgType : Word} {decOp : Byte}
    (hreq : finalizeBuffer msgType s.req = req) (always : Bool) (decArg : Byte) (off len : Word)
    (ha : admitted decOp) (hw : windowPasses s .req) :
    (∃ u x r, exec (.xact msgType always decOp decArg off len) s = .next (u.respond (xactResponse x r))
        ∧ Finished req s u x)
      ∨ (silentSoon s
        ∧ exec (.xact msgType always decOp decArg off len) s = .fault .transportNeverAnswers) := by
  have hrun := obeys_runFinalized always decOp decArg off len req s
  rw [exec_xact ha hw.1 hw.2, runXact_eq_runFinalized, hreq]
  cases he : runFinalized always decOp decArg off len req s with
  | goOn u => rw [he] at hrun; exact hrun.elim
  | ended u x r => rw [he] at hrun; exact .inl ⟨u, x, r, rfl, hrun⟩
  | silent => rw [he] at hrun; exact .inr ⟨hrun, rfl⟩

/-! ### The fields of the packed result (R340) -/

section pack
variable (x : XResult)

theorem xactResponse_xres (r : Results) : (xactResponse x r).xres = x.pack := rfl

theorem pack_kind : x.pack.extractLsb' 0 4 = x.kind.code := BitVec.extractLsb'_append_eq_right

theorem pack_xs : x.pack.extractLsb' 12 3 = xstateCode x.xs := by
  simp only [XResult.pack, BitVec.extractLsb'_append_eq_of_le, Nat.reduceLeDiff, Nat.reduceSub]
  exact BitVec.extractLsb'_append_eq_right

theorem pack_top : x.pack.extractLsb' 40 8 = 0 := by
  simp only [XResult.pack, BitVec.extractLsb'_append_eq_of_le, Nat.reduceLeDiff, Nat.reduceSub]
  exact BitVec.extractLsb'_eq_self

end pack

theorem kind_code_of_failure {k : XKind} (h : k ≠ .success) : 1 ≤ k.code.toNat ∧ k.code.toNat ≤ 4 := by
  cases k
  case success => exact absurd rfl h
  all_goals decide

/-! ### How a transaction on a given script ends -/

/-- Finalizing changes no flag (R334). -/
theorem awaits_finalized {msgType : Word} {s : State} {req : Memory}
    (hreq : finalizeBuffer msgType s.req = req) (always : Bool) :
    (always || ackRequested s.params.flags req) = true ↔ awaitsResponse always s := by
  rw [← hreq, ackRequested_finalizeBuffer, Bool.or_eq_true]
  rfl

section ended
variable {s : State} {req rsp : Memory} {msgType : Word} {always : Bool} {decOp decArg : Byte}
  {off len : Word} {received : List TransportCall} {rest : List TransportAnswer} {y : XState} {x : XResult}
  {r : Results}

/-- An admitted transaction whose stages end answers the host with their result. -/
theorem exec_xact_ended (hreq : finalizeBuffer msgType s.req = req) (ha : admitted decOp)
    (hw : windowPasses s .req)
    (hrun : runFinalized always decOp decArg off len req s
      = .ended (inTransaction req rsp received rest y s) x r) :
    ∃ t, exec (.xact msgType always decOp decArg off len) s = .next t
      ∧ transacted msgType received rest s t ∧ t.req = req ∧ t.rsp = rsp ∧ t.xstate = y
      ∧ t.response = some (xactResponse x r) := by
  have htransacted := transacted_inTransaction msgType rsp received rest y (xactResponse x r) hw
  rw [hreq] at htransacted
  refine ⟨_, ?_, htransacted, rfl, rfl, rfl, rfl⟩
  rw [exec_xact ha hw.1 hw.2, runXact_eq_runFinalized, hreq, hrun, finishXact]

end ended

theorem errno_toNat (m : Memory) : (BitVec.ofNat 16 (getField m fErrno)).toNat = leValue (memRead m 6 2) := by
  rw [BitVec.toNat_ofNat]
  exact Nat.mod_eq_of_lt (getField_lt m fErrno)

theorem CmdFault.code_ne_ok (f : CmdFault) : f.code ≠ 0 := by
  cases f <;> simp [CmdFault.code]

/-- The state of a transaction that received a whole response. -/
def delivered (req : Memory) (h p : List Byte) (rest : List TransportAnswer) (x : XState) (s : State) : State :=
  inTransaction req (withResponse s h p) [.receiveBytes 44 (headerBr h), .receiveBytes 0 44] rest x s

/-- A response judged ends the transaction, and stays in `RSP`. -/
theorem exec_xact_delivered {s : State} {req : Memory} {msgType : Word} {always : Bool} {decOp decArg : Byte}
    {off len : Word} {h p : List Byte} {rest : List TransportAnswer} {y : XState} {x : XResult} {r : Results}
    (hreq : finalizeBuffer msgType s.req = req) (ha : admitted decOp) (hw : windowPasses s .req)
    (hh : 44 ≤ h.length) (hp : headerBr h ≤ p.length)
    (hrun : runFinalized always decOp decArg off len req s
      = judgeResponse decOp decArg off len (delivered req h p rest .awaitingRemainder s))
    (hjudge : judgeResponse decOp decArg off len (delivered req h p rest .awaitingRemainder s)
      = .ended (delivered req h p rest y s) x r) :
    ∃ t, exec (.xact msgType always decOp decArg off len) s = .next t
      ∧ transacted msgType [.receiveBytes 44 (headerBr h), .receiveBytes 0 44] rest s t
      ∧ (∀ a, t.byte .rsp a = if a < 44 then h.getD a 0
          else if a < 44 + headerBr h then p.getD (a - 44) 0 else clearedByte s a)
      ∧ t.req = req ∧ t.rsp = withResponse s h p ∧ t.xstate = y
      ∧ t.response = some (xactResponse x r) := by
  obtain ⟨t, hexec, htransacted, hreqt, hrsp, hx, hresponse⟩ :=
    exec_xact_ended hreq ha hw (hrun.trans hjudge)
  refine ⟨t, hexec, htransacted, fun a => ?_, hreqt, hrsp, hx, hresponse⟩
  rw [byte_eq, buf_rsp, hrsp, readByte_withResponse hh hp]

/-- Run by itself in the final state, the decode command answers what it answered inside (R331, R339). -/
theorem exec_decodeStep_delivered {s t : State} {req : Memory} {msgType : Word} {decOp : Byte}
    {received : List TransportCall} {h p : List Byte} {rest rest' : List TransportAnswer} {x : XState}
    (decArg : Byte) (off len : Word) (ha : admitted decOp) (hne : decOp ≠ 0)
    (htransacted : transacted msgType received rest s t) (hreqt : t.req = req)
    (hrsp : t.rsp = withResponse s h p) :
    ∃ i, decode (decodeStepCommand decOp decArg off len) = .ok i
      ∧ exec i t = answerQuery t (runDecode decOp decArg off len (delivered req h p rest' x s)) := by
  obtain ⟨-, -, -, -, -, hparams, -⟩ := htransacted
  obtain ⟨i, hdecode, -, hexec⟩ :=
    exec_decodeStep (s := delivered req h p rest' x s) decArg off len ha hne hparams hreqt hrsp
  exact ⟨i, hdecode, hexec⟩

/-! ### The sequencer, stage by stage (R341) -/

theorem XStage.Meets.of_goOn {P Q : State → Prop} {p : XStage} {t : State} (hp : p.Meets P Q)
    (h : p = .goOn t) : P t := by
  rwa [h] at hp

theorem XStage.Meets.of_ended {P Q : State → Prop} {p : XStage} {t : State} {x : XResult} {r : Results}
    (hp : p.Meets P Q) (h : p = .ended t x r) : Q t := by
  rwa [h] at hp

section table
variable (s : State)

theorem xstate_xactSend : (xactSend s).Meets (·.xstate = .sent) (·.xstate = .failed) := by
  obtain he | he | ⟨st, -, he⟩ := xactSend_cases s <;> rw [he]
  exacts [trivial, rfl, rfl]

theorem xstate_xactAwait (always : Bool) :
    (xactAwait always s).Meets (·.xstate = s.xstate) (·.xstate = .success) := by
  unfold xactAwait
  split
  · exact rfl
  · exact rfl

theorem xstate_xactHeader : (xactHeader s).Meets (·.xstate = .awaitingRemainder) (·.xstate = .failed) := by
  obtain he | ⟨bs, -, he | ⟨io, -, he⟩⟩ := xactHeader_cases s <;> rw [he]
  exacts [trivial, rfl, rfl]

theorem xstate_xactRemainder : (xactRemainder s).Meets (·.xstate = s.xstate) (·.xstate = .failed) := by
  obtain ⟨-, io, -, he⟩ | ⟨-, -, he | ⟨bs, -, he | ⟨io, -, he⟩⟩⟩ := xactRemainder_cases s <;> rw [he]
  exacts [rfl, trivial, rfl, rfl]

theorem xstate_xactValidate : (xactValidate s).Meets (·.xstate = s.xstate) (·.xstate = .failed) := by
  obtain he | ⟨x, -, -, he⟩ := xactValidate_cases s <;> rw [he]
  exacts [rfl, rfl]

theorem xstate_xactClassify : (xactClassify s).Meets (·.xstate = s.xstate) (·.xstate = .failed) := by
  obtain he | ⟨x, -, -, he⟩ := xactClassify_cases s <;> rw [he]
  exacts [rfl, rfl]

theorem xstate_xactDecode (decOp decArg : Byte) (off len : Word) :
    (xactDecode decOp decArg off len s).Meets (fun _ => False)
      (fun t => t.xstate = .success ∨ t.xstate = .failed) := by
  obtain ⟨x, r, -, -, he⟩ | ⟨x, -, -, he⟩ := xactDecode_cases decOp decArg off len s <;> rw [he]
  exacts [.inl rfl, .inr rfl]

end table

/-! ### The statements of 47_transaction.md -/

/-- Settles O45: the three writes lie apart, and the checksum is taken of what holds the type already. -/
theorem finalizeWritesThreeSpans : Obligations.FinalizeWritesThreeSpans := by
  intro s b msgType
  refine ⟨windowFaultSpec_commitBuffer s b _, fun h => ?_⟩
  obtain ⟨t, hexec, hdone, hframe, hbuf⟩ := commitBuffer_completes s b (finalizeBuffer msgType (s.buf b))
  have hbr : brOf (t.buf b) = brOf (s.buf b) := by rw [hbuf, brOf_finalizeBuffer]
  refine ⟨t, ?_, hdone, hframe, hbr, ?_, ?_, ?_, fun x htype htail => ?_⟩
  · show commitBuffer s b (withWindow (s.cap b) (s.buf b) _) = _
    rw [withWindow_ok h.1 h.2, hexec]
  · rw [hbuf, memRead_msgtype_finalizeBuffer, sliceBytes_eq]
  · rw [expectedOf_eq, ← hbr, ← ckOff_eq, hbuf, memRead_checksum_finalizeBuffer]
  · rw [← hbr, ← ftOff_of_legal (hbr ▸ h.1), hbuf, memRead_footer_finalizeBuffer]
    rfl
  · rw [byte_eq, hbuf, readByte_finalizeBuffer_out msgType h.1 htype htail, byte_eq]

/-- Settles O50: the stages end the transaction unless one of the first three answers is silence. -/
theorem xactEndsSuccessOrFailed : Obligations.XactEndsSuccessOrFailed := by
  intro s msgType always decOp decArg off len ha hw hanswers
  obtain ⟨u, x, r, hexec, -, hagrees⟩ | ⟨hsilent, -⟩ :=
    exec_xact_cases (msgType := msgType) rfl always decArg off len ha hw
  · refine ⟨_, _, hexec, rfl, rfl, ?_, pack_top x⟩
    rw [xactResponse_xres, pack_xs, pack_kind]
    obtain ⟨hu, hxs, hkind⟩ | ⟨hu, hxs, hkind⟩ := hagrees
    · exact .inl ⟨hu, by rw [hxs]; rfl, by rw [hkind]; rfl⟩
    · exact .inr ⟨hu, by rw [hxs]; rfl, kind_code_of_failure hkind⟩
  · exact absurd rfl (hanswers _ hsilent)

/-- Settles O51: the send fails in the state that `FINALIZE` left. -/
theorem xactSendFailureLeavesResponseAlone : Obligations.XactSendFailureLeavesResponseAlone := by
  intro s msgType always decOp decArg off len st bytes rest ha hw hans hst
  obtain ⟨req, hreq⟩ : ∃ req, finalizeBuffer msgType s.req = req := ⟨_, rfl⟩
  obtain ⟨t, hexec, htransacted, -, hrsp, hx, hresponse⟩ :=
    exec_xact_ended hreq ha hw (runFinalized_sendFailure hans hst)
  exact ⟨t, hexec, htransacted, hrsp, hx, (endsWith_of_xactResponse hresponse :)⟩

/-- Settles O52: step 4 ends the transaction before `RSP` is cleared. -/
theorem xactWithoutResponse : Obligations.XactWithoutResponse := by
  intro s msgType always decOp decArg off len bytes rest ha hw hans hno
  obtain ⟨req, hreq⟩ : ∃ req, finalizeBuffer msgType s.req = req := ⟨_, rfl⟩
  obtain ⟨t, hexec, htransacted, -, hrsp, hx, hresponse⟩ := exec_xact_ended hreq ha hw
    (runFinalized_withoutResponse hans (mt (awaits_finalized hreq always).mp hno))
  exact ⟨t, hexec, htransacted, hrsp, hx, (endsWith_of_xactResponse hresponse :)⟩

/-- Settles O53: the header's receive is confined to its span, and `RSP` was cleared before it. -/
theorem xactHeaderFailure : Obligations.XactHeaderFailure := by
  intro s msgType always decOp decArg off len bytes h st rest ha hw hans haw hn
  obtain ⟨req, hreq⟩ : ∃ req, finalizeBuffer msgType s.req = req := ⟨_, rfl⟩
  obtain ⟨bs, hlen, hrun⟩ :=
    runFinalized_headerFailure ((awaits_finalized hreq always).mpr haw) hans hn
  obtain ⟨t, hexec, htransacted, -, hrsp, hx, hresponse⟩ := exec_xact_ended hreq ha hw hrun
  refine ⟨t, hexec, htransacted, fun a h44 => ?_, hx, ?_⟩
  · rw [byte_eq, buf_rsp, hrsp, readByte_memWrite_out _ _ _ _ (by omega), readByte_clearedRsp]
  · rw [← statusCode_reported]
    exact (endsWith_of_xactResponse hresponse :)

/-- Settles O54: the bytes-remaining that step 6 tests is the received header's, and its receive is confined to
the span behind the header. -/
theorem xactRemainderFailure : Obligations.XactRemainderFailure := by
  intro s msgType always decOp decArg off len bytes h rest ha hw hans haw hh
  obtain ⟨req, hreq⟩ : ∃ req, finalizeBuffer msgType s.req = req := ⟨_, rfl⟩
  have hawaits := (awaits_finalized hreq always).mpr haw
  refine ⟨fun hbad => ?_, fun hbr hfit st p rest' hrest hn => ?_⟩
  · obtain ⟨t, hexec, htransacted, -, hrsp, hx, hresponse⟩ :=
      exec_xact_ended hreq ha hw (runFinalized_badLength hawaits hh hans hbad)
    refine ⟨t, hexec, htransacted, fun a => ?_, hx, ?_⟩
    · rw [byte_eq, buf_rsp, hrsp, readByte_withHeader hh]
    · rw [← statusCode_claimed]
      exact (endsWith_of_xactResponse hresponse :)
  · obtain ⟨bs, hlen, hrun⟩ :=
      runFinalized_remainderFailure hawaits hh hbr hfit (hrest ▸ hans) hn
    obtain ⟨t, hexec, htransacted, -, hrsp, hx, hresponse⟩ := exec_xact_ended hreq ha hw hrun
    refine ⟨t, hexec, htransacted, fun a h44 => ?_, fun a hout => ?_, hx, ?_⟩
    · rw [byte_eq, buf_rsp, hrsp, readByte_memWrite_out _ _ _ _ (.inl h44), readByte_withHeader hh, if_pos h44]
    · rw [byte_eq, buf_rsp, hrsp, readByte_memWrite_out _ _ _ _ (by omega), readByte_withHeader hh,
        if_neg (by omega)]
    · rw [← statusCode_reported]
      exact (endsWith_of_xactResponse hresponse :)

/-- Settles O55: the stages that judge a whole response, one case after the other. -/
theorem xactDeliversResponse : Obligations.XactDeliversResponse := by
  intro s msgType always decOp decArg off len bytes h p rest ha hw hans haw hh hbr hfit hp
  obtain ⟨req, hreq⟩ : ∃ req, finalizeBuffer msgType s.req = req := ⟨_, rfl⟩
  have hbrOf : brOf (delivered req h p rest .awaitingRemainder s).rsp = headerBr h := brOf_withResponse hh
  have hrun := runFinalized_delivered ((awaits_finalized hreq always).mpr haw) (decOp := decOp)
    (decArg := decArg) (off := off) (len := len) hh hbr hfit hans hp
  by_cases hframe : misframed s.params.xactStrictHeader (headerBr h) (withResponse s h p)
  · obtain ⟨t, hexec, htransacted, hbytes, -, hrsp, hx, hresponse⟩ :=
      exec_xact_delivered hreq ha hw hh hp hrun (judgeResponse_misframed hbrOf hbr hframe)
    refine ⟨t, hexec, htransacted, hbytes, ?_⟩
    rw [← hrsp] at hframe
    rw [if_pos hframe]
    exact ⟨hx, (endsWith_of_xactResponse hresponse :)⟩
  by_cases hflags : deviceRefused s.params.flags (withResponse s h p)
  · obtain ⟨t, hexec, htransacted, hbytes, -, hrsp, hx, hresponse⟩ :=
      exec_xact_delivered hreq ha hw hh hp hrun (judgeResponse_refused hbrOf hbr hframe hflags)
    refine ⟨t, hexec, htransacted, hbytes, ?_⟩
    rw [← hrsp] at hframe hflags
    rw [if_neg hframe, if_pos hflags, hrsp, ← errno_toNat]
    exact ⟨hx, (endsWith_of_xactResponse hresponse :)⟩
  have haccepted := judgeResponse_accepted (decOp := decOp) (decArg := decArg) (off := off) (len := len)
    hbrOf hbr hframe hflags
  by_cases hnone : decOp = 0
  · subst hnone
    obtain ⟨t, hexec, htransacted, hbytes, -, hrsp, hx, hresponse⟩ :=
      exec_xact_delivered hreq ha hw hh hp hrun (haccepted.trans xactDecode_none)
    refine ⟨t, hexec, htransacted, hbytes, ?_⟩
    rw [← hrsp] at hframe hflags
    rw [if_neg hframe, if_neg hflags, if_pos rfl]
    exact ⟨hx, (endsWith_of_xactResponse hresponse :)⟩
  cases hdecoded : runDecode decOp decArg off len (delivered req h p rest .awaitingRemainder s) with
  | ok q =>
    obtain ⟨t, hexec, htransacted, hbytes, hreqt, hrsp, hx, hresponse⟩ :=
      exec_xact_delivered hreq ha hw hh hp hrun (haccepted.trans (xactDecode_of_ok hnone hdecoded))
    obtain ⟨i, hdecode, hread⟩ :=
      exec_decodeStep_delivered decArg off len ha hnone htransacted hreqt hrsp
    rw [hdecoded] at hread
    refine ⟨t, hexec, htransacted, hbytes, ?_⟩
    rw [← hrsp] at hframe hflags
    rw [if_neg hframe, if_neg hflags, if_neg hnone]
    exact ⟨i, _, hdecode, hread, fun _ => ⟨hx, hresponse⟩, fun hne => absurd rfl hne⟩
  | error f =>
    obtain ⟨t, hexec, htransacted, hbytes, hreqt, hrsp, hx, hresponse⟩ :=
      exec_xact_delivered hreq ha hw hh hp hrun (haccepted.trans (xactDecode_of_error hnone hdecoded))
    obtain ⟨i, hdecode, hread⟩ :=
      exec_decodeStep_delivered decArg off len ha hnone htransacted hreqt hrsp
    rw [hdecoded] at hread
    refine ⟨t, hexec, htransacted, hbytes, ?_⟩
    rw [← hrsp] at hframe hflags
    rw [if_neg hframe, if_neg hflags, if_neg hnone]
    exact ⟨i, _, hdecode, hread, fun hok => absurd hok f.code_ne_ok,
      fun _ => ⟨hx, (endsWith_of_xactResponse hresponse :)⟩⟩

/-- Settles O56: each stage that goes on adds at most its own receive to the calls. -/
theorem xactCallsTransportInOrder : Obligations.XactCallsTransportInOrder := by
  intro s t msgType always decOp decArg off len h
  by_cases hadmit : admitted decOp ∧ windowPasses s .req
  · obtain ⟨ha, hw⟩ := hadmit
    obtain ⟨req, hreq⟩ : ∃ req, finalizeBuffer msgType s.req = req := ⟨_, rfl⟩
    have hfinalize := exec_finalize (b := .req) msgType hw.1 hw.2
    rw [buf_req, hreq] at hfinalize
    obtain ⟨u, x, r, hexec, ⟨received, m, y, rfl, hreceived⟩, -⟩ | ⟨-, hstuck⟩ :=
      exec_xact_cases hreq always decArg off len ha hw
    · cases hexec.symm.trans h
      refine .inr ⟨ha, hw, _, hfinalize, rfl, ?_⟩
      cases hreceived with
      | nothing => exact .inl ⟨rfl, rfl⟩
      | header hout => exact .inr (.inl ⟨rfl, hout⟩)
      | response hbr hfit hout => exact .inr (.inr ⟨rfl, hbr, hfit, hout⟩)
    · cases hstuck.symm.trans h
  · obtain ⟨f, hexec⟩ := exec_xact_of_not_admitted msgType always decArg off len hadmit
    cases hexec.symm.trans h
    exact .inl ⟨hadmit, rfl⟩

/-- Settles O57: an admitted opcode is one of a read on `RSP`, which `XACT` runs by the command's own query. -/
theorem decodeStepIsTheCommand : Obligations.DecodeStepIsTheCommand :=
  fun _ _ decArg off len ha hne => exec_decodeStep decArg off len ha hne rfl rfl rfl

/-- Settles O58, stage by stage. -/
theorem sequencerFollowsTable : Obligations.SequencerFollowsTable := by
  intro s t x r msgType always decOp decArg off len
  refine ⟨fun h => by cases h; rfl, fun h => by cases h; rfl, (xstate_xactSend s).of_goOn,
    (xstate_xactSend s).of_ended, fun hs h => ((xstate_xactAwait s always).of_goOn h).trans hs,
    (xstate_xactAwait s always).of_ended, fun h => by cases h; rfl, (xstate_xactHeader s).of_goOn,
    (xstate_xactHeader s).of_ended, fun hs => ⟨fun h => ?_, fun h => ?_, fun h => ?_⟩,
    (xstate_xactRemainder s).of_ended, (xstate_xactValidate s).of_ended, (xstate_xactClassify s).of_ended,
    (xstate_xactDecode s decOp decArg off len).of_ended, fun u => ?_⟩
  · exact ((xstate_xactRemainder s).of_goOn h).trans hs
  · exact ((xstate_xactValidate s).of_goOn h).trans hs
  · exact ((xstate_xactClassify s).of_goOn h).trans hs
  · exact (hostSide_runXact msgType always decOp decArg off len u).of_goOn

/-- Settles O47, bit by bit of the word. -/
theorem hdrParseReports : Obligations.HdrParseReports := by
  intro s b
  obtain ⟨hsync, hver, hlen, hfits⟩ := hdrParseData_judgements (s.cap b) (s.buf b)
  refine ⟨hdrParseData (s.cap b) (s.buf b), rfl, hdrParseData_br _ _, ?_, ?_, ?_, ?_, hdrParseData_high _ _⟩
  · rw [hsync, syncOk_iff]; rfl
  · rw [hver, verOk_iff]; rfl
  · rw [hlen, decide_eq_true_iff, minBr]
  · rw [hfits, decide_eq_true_iff, msgLen_eq]

/-- Settles O48: the flags are bits of the word that bytes 4 and 5 make, the error number that of 6 and 7. -/
theorem rspClassifyReports : Obligations.RspClassifyReports := by
  intro s b
  obtain ⟨hnack, hexception, hok⟩ := rspClassifyData_flags s.params.flags (s.buf b)
  obtain ⟨hlow, hhigh⟩ := rspClassifyData_zeros s.params.flags (s.buf b)
  refine ⟨rspClassifyData s.params.flags (s.buf b), rfl, ?_, ?_, fun hdefault => ?_, ?_, hlow,
    rspClassifyData_errno _ _, hhigh⟩
  · rw [hnack, nackSet, flagAt_eq]; rfl
  · rw [hexception, exceptionSet, flagAt_eq]; rfl
  · rw [hnack, hexception, nackSet, exceptionSet, flagAt_eq, flagAt_eq, hdefault]
    exact ⟨getLsbD_iff_and_flagMask _ 3, getLsbD_iff_and_flagMask _ 4⟩
  · rw [hnack, hexception, hok, msgOk_iff]

/-- Settles O49: admission tests the decode opcode, then the window. -/
theorem xactAdmissionFaults : Obligations.XactAdmissionFaults := by
  intro s msgType always decOp decArg off len
  refine ⟨fun hno => exec_xact_of_fault (f := .illegalOp) ?_, fun ha => ?_⟩
  · rw [admitXact, if_neg (mt (admissible_iff decOp).mp hno)]
  · have hadmit : admitXact decOp s = window (s.cap .req) s.req :=
      if_pos ((admissible_iff decOp).mpr ha)
    exact ⟨fun hbr => exec_xact_of_fault (hadmit.trans (window_badLength hbr)),
      fun hbr hcap => exec_xact_of_fault (hadmit.trans (window_tooSmall hbr hcap))⟩

end Sys2Proof.Machine

namespace Sys2Proof.Machine

/-! ### The ends of a command (R9, R362) -/

/-- The command completed: it ends in a next state whose response has status `OK`. -/
def EndsOk (o : StepOutcome) : Prop := ∃ t r, o = .next t ∧ t.response = some r ∧ r.status = 0

/-- The command took a fault, on the state it began in (R362). -/
def TakesFault (s : State) (o : StepOutcome) : Prop := ∃ f : CmdFault, o = faultsWith f.code f.info s

theorem endsOk_answerQuery (s : State) (r : Results) : EndsOk (answerQuery s (.ok r)) :=
  ⟨_, okResponse r, answerQuery_ok s r, rfl, rfl⟩

theorem endsOk_commitBuffer (s : State) (b : BufSel) (m : Memory) (r : Results) :
    EndsOk (commitBuffer s b (.ok (m, r))) :=
  ⟨_, okResponse r, commitBuffer_ok s b m r, rfl, rfl⟩

/-- An immediate setter at an offset up to 16 truncates, and does not fault (R181). -/
theorem endsOk_immSetter (s : State) (b : BufSel) {off : Nat} (bytes : List Byte) (h : off ≤ 16) :
    EndsOk (commitBuffer s b (countResult (immWrite (s.buf b) off bytes))) := by
  obtain ⟨t, hexec, -, hdone, -⟩ := immSetter_completes s b bytes h
  exact ⟨t, _, hexec, hdone, rfl⟩

/-- A query completes or faults. -/
theorem answerQuery_ends (s : State) (q : Except CmdFault Results) :
    EndsOk (answerQuery s q) ∨ TakesFault s (answerQuery s q) := by
  cases q with
  | ok r => exact .inl (endsOk_answerQuery s r)
  | error f => exact .inr ⟨f, answerQuery_error s f⟩

/-- A commit completes or faults; a fault in its place writes nothing. -/
theorem commitBuffer_ends (s : State) (b : BufSel) (q : Except CmdFault (Memory × Results)) :
    EndsOk (commitBuffer s b q) ∨ TakesFault s (commitBuffer s b q) := by
  cases q with
  | ok p => exact .inl (endsOk_commitBuffer s b p.1 p.2)
  | error f => exact .inr ⟨f, commitBuffer_error s b f⟩

/-- Every command but `XACT` completes or faults. -/
theorem exec_ends_of_not_transaction {i : Instr} (s : State) (hc : (classOf i).1 ≠ .transaction) :
    EndsOk (exec i s) ∨ TakesFault s (exec i s) := by
  obtain hread | ⟨b, hlife | hbuild⟩ := classOf_cases hc
  · obtain ⟨q, hq⟩ := exec_of_read s hread
    exact hq ▸ answerQuery_ends s q
  · obtain ⟨q, hq⟩ := exec_of_lifecycle s hlife
    exact hq ▸ commitBuffer_ends s b q
  · obtain ⟨q, hq, -⟩ := exec_of_build s hbuild
    exact hq ▸ commitBuffer_ends s b q

/-- `XACT` faults at admission only; after it, it completes unless it meets silence (R331, U44). -/
theorem exec_ends_of_transaction {i : Instr} (s : State) (hc : (classOf i).1 = .transaction) :
    EndsOk (exec i s) ∨ TakesFault s (exec i s)
      ∨ (silentSoon s ∧ exec i s = .fault .transportNeverAnswers) := by
  cases i <;> cases hc
  case xact msgType always decOp decArg off len =>
    by_cases hadmit : admitted decOp ∧ windowPasses s .req
    · obtain ⟨req, hreq⟩ : ∃ req, finalizeBuffer msgType s.req = req := ⟨_, rfl⟩
      obtain ⟨u, x, r, hexec, -⟩ | hstuck := exec_xact_cases hreq always decArg off len hadmit.1 hadmit.2
      · exact .inl ⟨_, xactResponse x r, hexec, rfl, rfl⟩
      · exact .inr (.inr hstuck)
    · obtain ⟨f, hexec⟩ := exec_xact_of_not_admitted msgType always decArg off len hadmit
      exact .inr (.inl ⟨f, hexec⟩)

/-- Everything any command can do: complete, take a fault on the state it began in, or, `XACT` alone, meet
silence among the next three answers. -/
theorem exec_ends (i : Instr) (s : State) :
    EndsOk (exec i s) ∨ TakesFault s (exec i s)
      ∨ ((classOf i).1 = .transaction ∧ silentSoon s ∧ exec i s = .fault .transportNeverAnswers) := by
  by_cases hc : (classOf i).1 = .transaction
  · exact (exec_ends_of_transaction s hc).imp_right (Or.imp_right fun hstuck => ⟨hc, hstuck⟩)
  · exact (exec_ends_of_not_transaction s hc).imp_right .inl

/-! ### The records the decoder refuses (R97, U29) -/

theorem decodeBytes_eq_wbytesLength_iff (c : Command) (i : Instr) :
    decodeBytes c i = .error .wbytesLength ↔ c.wbytes.length ≠ c.len.toNat := by
  unfold decodeBytes
  split <;> simp [*]

/-- Only the four commands that read `wbytes` are refused, and only for their count. -/
theorem wbytes_length_ne_of_decodeOp {b : BufSel} {c : Command} {op : Nat}
    (h : decodeOp b c op = .error .wbytesLength) : c.wbytes.length ≠ c.len.toNat := by
  unfold decodeOp at h
  split at h
  case h_65 => cases b <;> cases h
  case h_29 | h_43 | h_54 | h_59 => exact (decodeBytes_eq_wbytesLength_iff c _).mp h
  all_goals cases h

theorem wbytes_length_ne_of_decode {c : Command} (h : decode c = .error .wbytesLength) :
    c.wbytes.length ≠ c.len.toNat := by
  unfold decode at h
  split at h
  · exact wbytes_length_ne_of_decodeOp h
  · cases h

/-! ### The statements of 60_exceptions.md -/

/-- Settles O10: a command that completes has status `OK`, so the one that does not took its fault on the
state it began in. -/
theorem faultedCommandChangesNothing : Obligations.FaultedCommandChangesNothing := by
  intro i s t r h hr hstatus
  obtain ⟨t', r', hexec, hr', hok⟩ | hfault | ⟨-, -, hstuck⟩ := exec_ends i s
  · cases hexec.symm.trans h
    cases hr'.symm.trans hr
    exact absurd hok hstatus
  · exact hfault
  · cases hstuck.symm.trans h

/-- Settles O12: to complete and to take a fault are both to end in a next state. -/
theorem onlySilentTransportStops : Obligations.OnlySilentTransportStops := by
  intro i s
  obtain ⟨t, -, hexec, -, -⟩ | ⟨f, hexec⟩ | hstuck := exec_ends i s
  · exact .inl ⟨t, hexec⟩
  · exact .inl ⟨_, hexec⟩
  · exact .inr hstuck

/-- Settles O6: the idle step, and the count that the decoder tests before the step refuses. -/
theorem stepWithoutAnInstruction : Obligations.StepWithoutAnInstruction := by
  intro s c
  exact ⟨step_of_idle, fun h => ⟨wbytes_length_ne_of_decode h, step_of_reject (s := s.present c) rfl h⟩⟩

/-- Settles O17: each of the commands is a query or a commit whose result is `.ok` whatever its operands, or an
immediate write at an offset in the region. -/
theorem commandsThatNeverFault : Obligations.CommandsThatNeverFault := by
  intro s b
  have query := endsOk_answerQuery s
  have commit := endsOk_commitBuffer s b
  have setter (f : Field) (v : Nat) : EndsOk (commitBuffer s b (setFieldResult f v (s.buf b))) := commit _ _
  have immediate {off : Word} (bytes : List Byte) (h : off.toNat ≤ 16) := endsOk_immSetter s b bytes h
  exact ⟨commit _ _, commit _ _,
    query _, query _, query _, query _, query _, query _, query _, query _, query _, query _,
    query _, query _, query _,
    fun _ => setter fSync _, fun _ => setter fVer _, fun _ => setter fFlags _, fun _ => setter fErrno _,
    fun _ => setter fMsgtype _, fun _ => setter fRegarding _, fun _ => setter fRsvd _,
    fun _ => setter fCktype _, fun _ => setter fBytesrem _,
    fun _ _ => immediate _, fun _ _ => immediate _, fun _ _ => immediate _, fun _ _ => immediate _,
    fun _ _ => immediate _, fun _ _ => immediate _, fun _ _ _ => immediate _⟩

end Sys2Proof.Machine

namespace Sys2Proof.Machine

/-! ### The reset state (R400) -/

/-- The reset event puts the sequencer at rest, so the invariant asks no more than legal buffer contents. -/
theorem inv_resetWith {p : Params} {m n : Memory} (hm : LegalBuffer p.capReq.bytes m)
    (hn : LegalBuffer p.capRsp.bytes n) : (State.resetWith p m n).Inv := by
  have hbuffers : BuffersLegal (State.resetWith p m n) := ⟨hm, hn⟩
  have hrest : (State.resetWith p m n).xstate.atRest = true := rfl
  exact (inv_iff _).mpr ⟨hbuffers, hrest⟩

/-- Settles O8: `State.reset` is the reset event on contents that list no byte, as `CLEAR` leaves them, and those
are legal for every capacity. -/
theorem resetMeetsInvariant : Obligations.ResetMeetsInvariant := by
  refine ⟨?reset, fun p m n hm hn hmin hnin => ?anyContents⟩
  case reset => exact inv_resetWith (legalBuffer_zeroed _ []) (legalBuffer_zeroed _ [])
  case anyContents => exact inv_resetWith ⟨hm, hmin⟩ ⟨hn, hnin⟩

end Sys2Proof.Machine
